-- ==== Sys2Proof/Word.lean ====
section
/-! DEFINITION. The two word types of the block: the byte of FBUF, GRIDMEM, PAL and HBLOB, and the 32-bit word of the
registers and of KMEM (10_state.md R20; 20_memory.md R50, R57). -/

namespace Sys2Proof

/-- One byte of a byte-addressed space (20_memory.md R50). -/
abbrev Byte := BitVec 8

/-- One host-visible register, or one word of KMEM: 32 bits (10_state.md R20, R43). -/
abbrev Word := BitVec 32

end Sys2Proof
end

