-- ==== Sys2Proof/Config.lean ====
section
/-! DEFINITION. What an implementation fixes (00_scope.md R7) and the free values the spec leaves open
(70_reset_and_hazards.md R261; 10_state.md R39, R44; 20_memory.md R62).

A free value is an `opaque` constant with no body: nothing in Lean can evaluate it, so a statement that mentions one holds
for every draw, as R261 asks. -/

namespace Sys2Proof

/-- `P_NUMERICS`, the arithmetic of convolution and equalization (00_scope.md R7, R12, R13). -/
inductive Numerics where
  /-- `EXACT`: exact rationals (R12). -/
  | exactArith
  /-- `BINARY64`: IEEE 754 binary64, round to nearest even, in the order each rule writes (R13). -/
  | binary64
deriving DecidableEq, Repr

/-- The implementation parameters of 00_scope.md R7. R7: "A model takes each one as an argument": State carries them
(log 3). The three capacities are 32-bit words because CAP_GRID_PX, CAP_FBUF and CAP_KMAX hold their values
(10_state.md R36; DEDUCED for P_KMAX, log 14). -/
structure Params where
  /-- `P_GRID_PX`, the pixel capacity of GRIDMEM and SCR. -/
  gridPx : Word
  /-- `P_FBUF_BYTES`, the byte capacity of FBUF. -/
  fbufBytes : Word
  /-- `P_KMAX`, the largest kernel side. -/
  kmax : Word
  /-- `P_NUMERICS`. -/
  numerics : Numerics
  /-- `P_EMBOSS`, the 3×3 weights of the EMBOSS preset, row by row, each an s32. -/
  emboss : Vector Word 9
deriving DecidableEq, Repr

namespace Config

/-- The default `P_EMBOSS`: `[[-2,-1,0],[-1,1,1],[0,1,2]]` (00_scope.md R7, 42_convolution.md R182). -/
def defaultEmboss : Vector Word 9 := #v[-2, -1, 0, -1, 1, 1, 0, 1, 2]

/-- The parameters `State.reset` takes. `EXACT` and the emboss weights are the values R7 gives. DESIGN CHOICE: the three
capacities, which R7 leaves OPEN, are those of the test vectors of 95_test_vectors.md (log 3). -/
def params : Params :=
  { gridPx := 64, fbufBytes := 4096, kmax := 7, numerics := .exactArith, emboss := defaultEmboss }

/-- The byte FBUF holds at an address after the n-th reset (70_reset_and_hazards.md R261). Free value (log 4). -/
opaque fbufDraw : Nat → Nat → Byte

/-- The byte GRIDMEM holds at an address after the n-th reset (R261). Free value (log 4). -/
opaque gridDraw : Nat → Nat → Byte

/-- The byte PAL holds at an address after the n-th reset (R261). Free value (log 4). -/
opaque palDraw : Nat → Nat → Byte

/-- The byte HBLOB holds at an address after the n-th reset (R261). Free value (log 4). -/
opaque hblobDraw : Nat → Nat → Byte

/-- The word KMEM holds at an index after the n-th reset (R261). Free value (log 4). -/
opaque kmemDraw : Nat → Nat → Word

/-- What the scratch grid SCR holds (10_state.md R39): counter, cell, channel. Free value (log 5). -/
opaque scrDraw : Nat → Nat → Nat → Byte

/-- What HIST holds between commands (10_state.md R44): counter, entry. Free value (log 5). -/
opaque histDraw : Nat → Nat → Word

/-- What CDF holds between commands (10_state.md R44). Free value (log 5). -/
opaque cdfDraw : Nat → Nat → Word

/-- What REMAP holds between commands (10_state.md R44): "REMAP entries lie in 0..255". Free value (log 5). -/
opaque remapDraw : Nat → Nat → Byte

/-- `P_BASE_*`: where the six spaces, numbered 0 to 5, sit in the host's own address map (20_memory.md R62: OPEN, "has no
effect on any rule"). No definition reads it (log 13). -/
opaque spaceBase : Nat → Nat

end Config

end Sys2Proof
end

