-- ==== Sys2Proof/Syntax.lean ====
section
/-! DEFINITION. The fifteen commands of BMPIP command set revision 1 (30_encoding.md R81, spec/opcode_table.json). A command
word has no operand field (R80): operands are taken from registers and memories when the Engine performs the command (R82). -/

namespace Sys2Proof

/-- One constructor per row of spec/opcode_table.json, in the table's order (30_encoding.md R81). -/
inductive Instr where
  /-- LOAD, OPC 0x01 (40_codec.md R111). -/
  | load
  /-- SAVE, OPC 0x02 (40_codec.md R126). -/
  | save
  /-- ALLOC, OPC 0x03 (40_codec.md R132). -/
  | alloc
  /-- PRINTINFO, OPC 0x04 (40_codec.md R138). -/
  | printInfo
  /-- NEGATIVE, OPC 0x10 (41_point_ops.md R150). -/
  | negative
  /-- GRAYSCALE, OPC 0x11 (41_point_ops.md R153). -/
  | grayscale
  /-- BRIGHTNESS, OPC 0x12 (41_point_ops.md R157). -/
  | brightness
  /-- THRESHOLD, OPC 0x13 (41_point_ops.md R160). -/
  | threshold
  /-- CONVOLVE, OPC 0x20 (42_convolution.md R172). -/
  | convolve
  /-- BOXBLUR, OPC 0x21 (42_convolution.md R179). -/
  | boxBlur
  /-- GAUSSIAN, OPC 0x22 (42_convolution.md R180). -/
  | gaussian
  /-- OUTLINE, OPC 0x23 (42_convolution.md R181). -/
  | outline
  /-- EMBOSS, OPC 0x24 (42_convolution.md R182). -/
  | emboss
  /-- SHARPEN, OPC 0x25 (42_convolution.md R183). -/
  | sharpen
  /-- EQUALIZE, OPC 0x30 (43_equalize.md R200). -/
  | equalize
deriving DecidableEq, Repr

end Sys2Proof
end

