-- ==== Sys2Proof/WellFormed.lean ====
section
/-! DEFINITION. What may stand where: the legal parameter values of 00_scope.md R7, and the well-formed command words of
30_encoding.md R80, R81. A command has no operand (R80), so every term of `Instr` is well-formed and the checks are made on
the two things that carry numbers. -/

namespace Sys2Proof

/-- Every command is well-formed: it has no operand field to check (30_encoding.md R80). -/
def Instr.wellFormed : Instr → Bool
  | .load | .save | .alloc | .printInfo => true
  | .negative | .grayscale | .brightness | .threshold => true
  | .convolve | .boxBlur | .gaussian | .outline | .emboss | .sharpen => true
  | .equalize => true

/-- The legal parameter values (00_scope.md R7): `P_GRID_PX ≥ 1`, `1078 ≤ P_FBUF_BYTES`, `P_KMAX` odd and at least 3. The
upper bounds of R7 and D34, and the range of `P_EMBOSS`, are the widths of the fields. -/
def Params.wellFormed (p : Params) : Bool :=
  decide (1 ≤ p.gridPx.toNat) && decide (1078 ≤ p.fbufBytes.toNat) &&
    decide (3 ≤ p.kmax.toNat) && decide (p.kmax.toNat % 2 = 1)

/-- The reserved field RSV = bits 31:8 of a command word (30_encoding.md R80). -/
def rsvField (w : Word) : BitVec 24 := w.extractLsb' 8 24

/-- The command selector OPC = bits 7:0 of a command word (30_encoding.md R80). -/
def opcField (w : Word) : Byte := w.extractLsb' 0 8

/-- The OPC values of the map of 30_encoding.md R81. Every other value is reserved (R83). -/
def mappedOpcodes : List Byte :=
  [0x01, 0x02, 0x03, 0x04, 0x10, 0x11, 0x12, 0x13, 0x20, 0x21, 0x22, 0x23, 0x24, 0x25, 0x30]

/-- A command word that selects a command: RSV = 0 and OPC in the map (30_encoding.md R81). -/
def commandWordWellFormed (w : Word) : Bool :=
  rsvField w == 0 && mappedOpcodes.contains (opcField w)

end Sys2Proof
end

