-- ==== Sys2Proof/Decode.lean ====
section
/-! DEFINITION. The decoder, total on every 32-bit word and rejecting by name (30_encoding.md R81, R83, R84), and after it
the encoder. Both read the one list `opcodeTable`, which is R81's map as match and mask pairs. -/

namespace Sys2Proof

/-- Why a command word is illegal (30_encoding.md R83). The block makes no difference between the two (log 12). -/
inductive DecodeError where
  /-- `w[31:8] ≠ 0`. -/
  | reservedBits
  /-- RSV is 0 and OPC is not in the map of R81. -/
  | unmappedOpcode
deriving DecidableEq, Repr

/-- One row of spec/opcode_table.json: a word w selects `instr` when `w &&& mask = value` (30_encoding.md R84). -/
structure OpcodeRow where
  mask : Word
  value : Word
  instr : Instr
deriving DecidableEq, Repr

/-- The opcode map of 30_encoding.md R81. R84: "The mask is 0xFFFFFFFF for every row, because RSV must be 0". -/
def opcodeTable : List OpcodeRow :=
  [⟨0xFFFFFFFF, 0x00000001, .load⟩, ⟨0xFFFFFFFF, 0x00000002, .save⟩,
   ⟨0xFFFFFFFF, 0x00000003, .alloc⟩, ⟨0xFFFFFFFF, 0x00000004, .printInfo⟩] ++
  [⟨0xFFFFFFFF, 0x00000010, .negative⟩, ⟨0xFFFFFFFF, 0x00000011, .grayscale⟩,
   ⟨0xFFFFFFFF, 0x00000012, .brightness⟩, ⟨0xFFFFFFFF, 0x00000013, .threshold⟩] ++
  [⟨0xFFFFFFFF, 0x00000020, .convolve⟩, ⟨0xFFFFFFFF, 0x00000021, .boxBlur⟩,
   ⟨0xFFFFFFFF, 0x00000022, .gaussian⟩, ⟨0xFFFFFFFF, 0x00000023, .outline⟩,
   ⟨0xFFFFFFFF, 0x00000024, .emboss⟩, ⟨0xFFFFFFFF, 0x00000025, .sharpen⟩] ++
  [⟨0xFFFFFFFF, 0x00000030, .equalize⟩]

/-- The command a word selects, or why it is illegal (30_encoding.md R81, R83, R84). -/
def decode (w : Word) : Except DecodeError Instr :=
  match opcodeTable.find? (fun row => w &&& row.mask == row.value) with
  | some row => .ok row.instr
  | none => .error (if rsvField w = 0 then .unmappedOpcode else .reservedBits)

/-- The command word of a command: RSV = 0, OPC from the map (30_encoding.md R80, R81). -/
def encode : Instr → Word
  | .load => 0x00000001
  | .save => 0x00000002
  | .alloc => 0x00000003
  | .printInfo => 0x00000004
  | .negative => 0x00000010
  | .grayscale => 0x00000011
  | .brightness => 0x00000012
  | .threshold => 0x00000013
  | .convolve => 0x00000020
  | .boxBlur => 0x00000021
  | .gaussian => 0x00000022
  | .outline => 0x00000023
  | .emboss => 0x00000024
  | .sharpen => 0x00000025
  | .equalize => 0x00000030

/-- The command the decoder reads from a command word given as a number whose bits at and above `nbits` are 0. A command word
is one 32-bit word (30_encoding.md R80) that the host writes whole (20_memory.md R57), so no byte order enters (log 12). -/
def decodeTableWord (nbits w : Nat) : Option Instr :=
  match decode (BitVec.ofNat 32 (w % 2 ^ nbits)) with
  | .ok i => some i
  | .error _ => none

end Sys2Proof
end

