-- ==== Sys2Proof/Machine/State.lean ====
section
/-! DEFINITION. The state of the block as plain data (10_state.md), the outcomes a step can stop with, and the state after
reset (10_state.md R48; 70_reset_and_hazards.md R260, R261). -/

namespace Sys2Proof.Machine

/-- The six address spaces (20_memory.md R50). -/
inductive Space where
  | reg
  | fbuf
  | gridmem
  | pal
  | hblob
  | kmem
deriving DecidableEq, Repr

/-- The registers of the REG space by name (10_state.md R23). -/
inductive Reg where
  | cmd
  | status
  | arg0
  | arg1
  | arg2
  | flen
  | imgW
  | imgH
  | imgBpp
  | ksize
  | kdiv
  | capGridPx
  | capFbuf
  | capKmax
deriving DecidableEq, Repr

/-- The status codes of 60_exceptions.md R230. The reserved codes 9..255 are "never written", so they are no value here. -/
inductive StatusCode where
  | ok
  | ioError
  | truncatedFileError
  | formatError
  | unsupportedFormatError
  | invalidKernelError
  | invalidParameterError
  | capacityError
  | illegalCommand
deriving DecidableEq, Repr

/-- One entry of what the outside world does next (70_reset_and_hazards.md R260, R267; log 1). -/
inductive EnvEvent where
  /-- A host read of `size` bytes at an address of a space (20_memory.md R57). -/
  | read (space : Space) (addr size : Nat)
  /-- A host write of `size` bytes at an address of a space (20_memory.md R57). -/
  | write (space : Space) (addr size : Nat) (value : Word)
  /-- The host statement WAIT: read STATUS until BUSY = 0 (30_encoding.md R85; log 15). -/
  | wait
  /-- The platform asserts reset (70_reset_and_hazards.md R260). -/
  | reset
deriving DecidableEq, Repr

/-- There is no fault: "No behaviour of the block is treated as `fault` or `stuck`" (93_implementation_defined.md;
60_exceptions.md R249). No step raises one (log 18). -/
inductive Fault where
deriving DecidableEq, Repr

/-- Why a step has no move. Every one but the first is a host access that 20_memory.md R58 refuses, raised by the host's step
only; no command raises one. Each is safe: R58 says the model has no host move for that access (log 7). -/
inductive Refusal where
  /-- Raised by `exec` for a command that has no meaning yet; none is left. Safe. -/
  | notModelled (mnemonic : String)
  /-- Raised by a host access outside its space (20_memory.md R58). Safe. -/
  | hostOutsideSpace (space : Space) (addr : Nat)
  /-- Raised by a host access to a reserved REG offset 0x38..0xFFC (10_state.md R23, 20_memory.md R58). Safe. -/
  | hostReservedOffset (addr : Nat)
  /-- Raised by a host access of the wrong width or alignment (20_memory.md R57, R58). Safe. -/
  | hostWrongWidth (space : Space) (addr size : Nat)
  /-- Raised by a host access to GRIDMEM with no image or outside the image area (20_memory.md R55, R58). Safe. -/
  | hostGridNotAdmitted (addr : Nat)
  /-- Raised by a host access other than a read of STATUS while BUSY = 1 (70_reset_and_hazards.md R272). Safe. -/
  | hostWhileBusy (space : Space) (addr : Nat)
deriving DecidableEq, Repr

/-- A memory: the units written since reset, by address, in rising order of address. With w = 8 this is a list of
`Host.Cell`. An address that is not listed was not written since reset and reads as its reset draw (log 4). -/
abbrev Memory (w : Nat) := List (Nat × BitVec w)

/-- Everything the spec gives the block (10_state.md), and beside it the model's own fields: the parameters (log 3), the
counters that name the free draws (log 4, log 5) and the outside world's next moves (log 1, log 8). -/
structure State where
  /-- The implementation parameters (00_scope.md R7); CAP_GRID_PX, CAP_FBUF and CAP_KMAX read three of them (10_state.md R36). -/
  params : Params
  /-- CMD, the last command word written (10_state.md R24). -/
  cmd : Word
  /-- STATUS.CODE (10_state.md R25, R26). -/
  code : StatusCode
  /-- STATUS.BUSY (10_state.md R25, R27). -/
  busy : Bool
  /-- STATUS.IMG (10_state.md R25, R28). -/
  img : Bool
  /-- ARG0 (10_state.md R29). -/
  arg0 : Word
  /-- ARG1 (10_state.md R29). -/
  arg1 : Word
  /-- ARG2 (10_state.md R29). -/
  arg2 : Word
  /-- FLEN, the file-image length (10_state.md R30). -/
  flen : Word
  /-- IMG_W (10_state.md R31). -/
  imgW : Word
  /-- IMG_H (10_state.md R31). -/
  imgH : Word
  /-- IMG_BPP (10_state.md R32). -/
  imgBpp : Word
  /-- KSIZE (10_state.md R34). -/
  ksize : Word
  /-- KDIV (10_state.md R35). -/
  kdiv : Word
  /-- FBUF (10_state.md R40). -/
  fbuf : Memory 8
  /-- GRIDMEM (10_state.md R38). -/
  grid : Memory 8
  /-- PAL (10_state.md R41). -/
  pal : Memory 8
  /-- HBLOB (10_state.md R42). -/
  hblob : Memory 8
  /-- KMEM, by word index (10_state.md R43). -/
  kmem : Memory 32
  /-- The pending command (10_state.md R24, R46). -/
  pending : Option Word
  /-- The model's own: the number of resets, which names the draw of 70_reset_and_hazards.md R261 (log 4). -/
  resets : Nat
  /-- The model's own: it names the draw that SCR holds (log 5). -/
  scrDraws : Nat
  /-- The model's own: it names the draw that HIST, CDF and REMAP hold (log 5). -/
  eqDraws : Nat
  /-- The model's own: what the host and the platform do next (log 1). -/
  env : List EnvEvent
  /-- The model's own: how many host polls pass before the Engine performs the pending command, one entry per command; none
  listed means 0 (70_reset_and_hazards.md R268; log 1). -/
  polls : List Nat
  /-- The model's own: the word the host's last read returned (log 8). -/
  lastRead : Option Word
deriving DecidableEq, Repr

/-- The block right after reset, for any parameters (10_state.md R48; 70_reset_and_hazards.md R260–R264): every register 0, no
image, no pending command, and no memory unit written. -/
def State.resetWith (p : Params) : State where
  params := p
  cmd := 0
  code := .ok
  busy := false
  img := false
  arg0 := 0
  arg1 := 0
  arg2 := 0
  flen := 0
  imgW := 0
  imgH := 0
  imgBpp := 0
  ksize := 0
  kdiv := 0
  fbuf := []
  grid := []
  pal := []
  hblob := []
  kmem := []
  pending := none
  resets := 0
  scrDraws := 0
  eqDraws := 0
  env := []
  polls := []
  lastRead := none

/-- The block right after reset, with the parameters of `Config.params` (log 3). -/
def State.reset : State := State.resetWith Config.params

end Sys2Proof.Machine
end

