-- ==== Sys2Proof/Machine/Ops.lean ====
section
/-! DEFINITION. The named operations over memories and registers: canonical memories (log 4), the byte-buffer primitives of
00_scope.md R14, the arithmetic of 00_scope.md R9–R11, the pixel view of 20_memory.md R54, and the end of a command
(00_scope.md R16): `complete`, and `raise`, the block's only form of an exception (60_exceptions.md R236). -/

namespace Sys2Proof.Machine

/-! ### Memories -/

/-- What an address that is not listed holds: nothing written since reset (70_reset_and_hazards.md R261; log 4). -/
def Memory.unlisted {w : Nat} : Option (BitVec w) := none

/-- The unit written at an address since reset, if any. -/
def Memory.lookup {w : Nat} : Memory w → Nat → Option (BitVec w)
  | [], _ => Memory.unlisted
  | (k, v) :: m, a => if k = a then some v else Memory.lookup m a

/-- Writes the `n` units `f 0, …, f (n-1)` at the addresses `lo, …, lo+n-1`, and keeps every other unit. -/
def Memory.fill {w : Nat} (m : Memory w) (lo n : Nat) (f : Nat → BitVec w) : Memory w :=
  m.filter (fun c => decide (c.1 < lo)) ++ (List.range n).map (fun t => (lo + t, f t)) ++
    m.filter (fun c => decide (lo + n ≤ c.1))

/-- Writes one unit. -/
def Memory.write {w : Nat} (m : Memory w) (a : Nat) (v : BitVec w) : Memory w :=
  Memory.fill m a 1 (fun _ => v)

/-- The canonical form: addresses strictly rising, and no entry equal to what an unlisted address holds (log 4). -/
abbrev Memory.wf {w : Nat} (m : Memory w) : Prop :=
  m.Pairwise (fun c d => c.1 < d.1) ∧ ∀ c ∈ m, some c.2 ≠ Memory.unlisted

/-- Every listed address lies below a size (20_memory.md R50: no space has units beyond its size). -/
abbrev Memory.within {w : Nat} (m : Memory w) (size : Nat) : Prop :=
  ∀ c ∈ m, c.1 < size

/-! ### The units of each space -/

/-- FBUF[a]: what was written since reset, else the reset draw (20_memory.md R60, 70_reset_and_hazards.md R261). -/
def State.fbufByte (s : State) (a : Nat) : Byte :=
  (Memory.lookup s.fbuf a).getD (Config.fbufDraw s.resets a)

/-- GRIDMEM[a] (70_reset_and_hazards.md R261). -/
def State.gridByte (s : State) (a : Nat) : Byte :=
  (Memory.lookup s.grid a).getD (Config.gridDraw s.resets a)

/-- PAL[a] (70_reset_and_hazards.md R261). -/
def State.palByte (s : State) (a : Nat) : Byte :=
  (Memory.lookup s.pal a).getD (Config.palDraw s.resets a)

/-- HBLOB[a] (70_reset_and_hazards.md R261). -/
def State.hblobByte (s : State) (a : Nat) : Byte :=
  (Memory.lookup s.hblob a).getD (Config.hblobDraw s.resets a)

/-- KMEM[i] (70_reset_and_hazards.md R261). -/
def State.kmemWord (s : State) (i : Nat) : Word :=
  (Memory.lookup s.kmem i).getD (Config.kmemDraw s.resets i)

/-- SCR: channel `ch` of cell `p`. Its value is unspecified between commands (10_state.md R39; log 5). -/
def State.scr (s : State) (p ch : Nat) : Byte := Config.scrDraw s.scrDraws p ch

/-- HIST[i], unspecified between commands (10_state.md R44; log 5). -/
def State.hist (s : State) (i : Nat) : Word := Config.histDraw s.eqDraws i

/-- CDF[i], unspecified between commands (10_state.md R44; log 5). -/
def State.cdf (s : State) (i : Nat) : Word := Config.cdfDraw s.eqDraws i

/-- REMAP[i], unspecified between commands, an entry in 0..255 (10_state.md R44; log 5). -/
def State.remap (s : State) (i : Nat) : Word := (Config.remapDraw s.eqDraws i).setWidth 32

/-! ### Byte-buffer primitives (00_scope.md R14) -/

/-- `MemRead(S, a, n)`, little-endian, of the space whose bytes `rd` gives. -/
def memRead (rd : Nat → Byte) (a : Nat) : Nat → Nat
  | 0 => 0
  | n + 1 => (rd a).toNat + 256 * memRead rd (a + 1) n

/-- `le16(S, a)`. -/
def le16 (rd : Nat → Byte) (a : Nat) : Nat := memRead rd a 2

/-- `le32(S, a)`. -/
def le32 (rd : Nat → Byte) (a : Nat) : Nat := memRead rd a 4

/-- `sle32(S, a) = sext_32(le32(S, a))`. -/
def sle32 (rd : Nat → Byte) (a : Nat) : Int := (BitVec.ofNat 32 (le32 rd a)).toInt

/-- `MemWrite(S, a, n, v)`: byte t is `(v div 256^t) mod 256`. -/
def memWrite (m : Memory 8) (a n v : Nat) : Memory 8 :=
  Memory.fill m a n (fun t => BitVec.ofNat 8 (v / 256 ^ t))

/-! ### Arithmetic (00_scope.md R9–R11) -/

/-- `sext_32` of a register or KMEM word (00_scope.md R9). -/
def sext32 (w : Word) : Int := w.toInt

/-- `zext_32` of a register (00_scope.md R9). -/
def zext32 (w : Word) : Nat := w.toNat

/-- `clamp(v, lo, hi)` (00_scope.md R10). -/
def clamp (v lo hi : Int) : Int := if v < lo then lo else if hi < v then hi else v

/-- `round(n / d)` for d > 0: to the nearest integer, a tie away from zero (00_scope.md R11). -/
def roundDiv (n : Int) (d : Nat) : Int :=
  if 0 ≤ n then (2 * n + d) / (2 * d) else -((2 * -n + d) / (2 * d))

/-- An integer in 0..255 as a byte. -/
def byteOf (v : Int) : Byte := BitVec.ofNat 8 v.toNat

/-- `Σ_{t=0..n-1} f t` (00_scope.md R10). -/
def sumTo (f : Nat → Int) : Nat → Int
  | 0 => 0
  | n + 1 => sumTo f n + f n

/-! ### The image (20_memory.md R54; 40_codec.md R110) -/

/-- `C(bpp)`: 1 if bpp = 8, and 3 otherwise (40_codec.md R110; log 9). -/
def channels (bpp : Word) : Nat := if bpp = 8 then 1 else 3

/-- `W`, the image width (10_state.md R31). -/
def State.width (s : State) : Nat := s.imgW.toNat

/-- `H`, the image height (10_state.md R31). -/
def State.height (s : State) : Nat := s.imgH.toNat

/-- The number of pixels, `W·H`. -/
def State.pixels (s : State) : Nat := s.width * s.height

/-- The size of the image area `GRIDMEM[0 .. W·H·C-1]` (20_memory.md R54). -/
def State.imageArea (s : State) : Nat := s.pixels * channels s.imgBpp

/-- The linear index of the first byte of pixel (y, x) (20_memory.md R54). -/
def State.pixelAddr (s : State) (y x : Nat) : Nat := channels s.imgBpp * (y * s.width + x)

/-- `GRID[y][x].ch`: channel 0 is the byte of an 8-bit pixel or r, channels 1 and 2 are g and b (20_memory.md R54). -/
def State.pixel (s : State) (y x ch : Nat) : Byte := s.gridByte (s.pixelAddr y x + ch)

/-- `pad(w)`: the padding bytes of a stored 24-bit row (30_encoding.md R96). -/
def rowPad (w : Nat) : Nat := (4 - 3 * w % 4) % 4

/-- `stride24(w)` (30_encoding.md R96). -/
def stride24 (w : Nat) : Nat := 3 * w + rowPad w

/-- `minoff(bpp)`: 54 for 24 bits, 1078 for 8 bits (40_codec.md R110). -/
def minOffset (bpp : Nat) : Nat := if bpp = 24 then 54 else 1078

/-! ### The end of a command -/

/-- The writes every command makes when it ends (70_reset_and_hazards.md R267(b)): STATUS.CODE is set, STATUS.BUSY cleared
and the pending command removed. The command's entry of the poll schedule goes with it (log 1). -/
def State.finish (s : State) (c : StatusCode) : State :=
  { s with code := c, busy := false, pending := none, polls := s.polls.tail }

/-- `raise <Status>`: the command ends with a status code and leaves every other piece of state as it was when it began
(00_scope.md R16, 60_exceptions.md R233). It saves no state and transfers no control (R236), so there is no return (R237). -/
def raise (c : StatusCode) (s : State) : Host.Outcome State Fault Refusal := .next (s.finish c)

/-- `complete`: the command ends with status OK (00_scope.md R16). -/
def complete (s : State) : Host.Outcome State Fault Refusal := .next (s.finish .ok)

/-- The check every legal command except LOAD and ALLOC makes first: an image is held, else InvalidParameterError
(60_exceptions.md R232). -/
def withImage (s : State) (body : Host.Outcome State Fault Refusal) : Host.Outcome State Fault Refusal :=
  if s.img = false then raise .invalidParameterError s else body

/-- Gives every byte of the first `n` bytes of GRIDMEM its new value and ends with OK: "a single simultaneous update"
(42_convolution.md R175). No other byte of GRIDMEM is written (10_state.md R38). -/
def State.setGrid (s : State) (n : Nat) (f : Nat → Byte) : State :=
  { s with grid := Memory.fill s.grid 0 n f }

end Sys2Proof.Machine
end

