-- ==== Sys2Proof/Machine/Operands.lean ====
section
/-! DEFINITION. Every operand form the spec gives: the ARG registers (30_encoding.md R82), the user kernel (R101) and the header
fields of a BMP file image (R91, read from FBUF without alignment, 20_memory.md R57). -/

namespace Sys2Proof.Machine

/-! ### Register operands (30_encoding.md R82) -/

/-- BRIGHTNESS: `delta = sext_32(ARG0)`. -/
def State.delta (s : State) : Int := sext32 s.arg0

/-- THRESHOLD: `cut = sext_32(ARG0)`. -/
def State.cut (s : State) : Int := sext32 s.arg0

/-- ALLOC: `w = sext_32(ARG0)`. -/
def State.allocWidth (s : State) : Int := sext32 s.arg0

/-- ALLOC: `h = sext_32(ARG1)`. -/
def State.allocHeight (s : State) : Int := sext32 s.arg1

/-- ALLOC: `bpp = zext_32(ARG2)`. -/
def State.allocDepth (s : State) : Nat := zext32 s.arg2

/-! ### The user kernel (30_encoding.md R101) -/

/-- CONVOLVE: the side `n = sext_32(KSIZE)`. -/
def State.kernelSide (s : State) : Int := sext32 s.ksize

/-- CONVOLVE: the divisor `d = sext_32(KDIV)`. -/
def State.kernelDivisor (s : State) : Int := sext32 s.kdiv

/-- CONVOLVE: the numerator `K[r][c] = sext_32(KMEM[r·n + c])` of a kernel of side n. -/
def State.kernelNumerator (s : State) (n r c : Nat) : Int := sext32 (s.kmemWord (r * n + c))

/-! ### The file image in FBUF (30_encoding.md R91) -/

/-- The file-image length `zext_32(FLEN)` (10_state.md R30). -/
def State.fileLength (s : State) : Nat := zext32 s.flen

/-- MAGIC is "BM": FBUF[0] = 0x42 and FBUF[1] = 0x4D (30_encoding.md R92). -/
def State.fileMagicOk (s : State) : Bool := s.fbufByte 0 == 0x42 && s.fbufByte 1 == 0x4D

/-- DATA_OFFSET, the u32 at offset 10. -/
def State.fileDataOffset (s : State) : Nat := le32 s.fbufByte 10

/-- WIDTH, the s32 at offset 18 (30_encoding.md R93). -/
def State.fileWidth (s : State) : Int := sle32 s.fbufByte 18

/-- HEIGHT, the s32 at offset 22 (30_encoding.md R93). -/
def State.fileHeight (s : State) : Int := sle32 s.fbufByte 22

/-- BPP, the u16 at offset 28 (30_encoding.md R94). -/
def State.fileDepth (s : State) : Nat := le16 s.fbufByte 28

/-- COMPRESSION, the u32 at offset 30 (30_encoding.md R95). -/
def State.fileCompression (s : State) : Nat := le32 s.fbufByte 30

/-- IMAGE_SIZE, the u32 at offset 34. -/
def State.fileImageSize (s : State) : Nat := le32 s.fbufByte 34

/-- The 8-bit byte count: IMAGE_SIZE, or w·h when it is 0 (40_codec.md R117). -/
def State.fileByteCount (s : State) : Int :=
  if s.fileImageSize = 0 then s.fileWidth * s.fileHeight else s.fileImageSize

/-- The length the file must have for its pixel data to be whole (40_codec.md R118). -/
def State.fileNeed (s : State) : Int :=
  if s.fileDepth = 24 then s.fileDataOffset + stride24 s.fileWidth.toNat * s.fileHeight
  else s.fileDataOffset + s.fileByteCount

end Sys2Proof.Machine
end

