-- ==== Sys2Proof/Machine/Flags.lean ====
section
/-! DEFINITION. STATUS, the block's only flags (10_state.md R25, R45): the numbers of the status codes (60_exceptions.md R230)
and the 32-bit word the host reads. The writes of CODE and BUSY are `State.finish` (Machine/Ops.lean) and the CMD write
(Machine/HostPort.lean); IMG is written by LOAD and ALLOC alone (R28). -/

namespace Sys2Proof.Machine

/-- The number of a status code (60_exceptions.md R230). -/
def StatusCode.toByte : StatusCode → Byte
  | .ok => 0
  | .ioError => 1
  | .truncatedFileError => 2
  | .formatError => 3
  | .unsupportedFormatError => 4
  | .invalidKernelError => 5
  | .invalidParameterError => 6
  | .capacityError => 7
  | .illegalCommand => 8

/-- A flag as one bit. -/
def bitOf (b : Bool) : BitVec 1 := if b then 1 else 0

/-- The word a read of STATUS returns (10_state.md R25): CODE in bits 7:0, BUSY in bit 8, IMG in bit 9, and bits 31:10 zero. -/
def State.statusWord (s : State) : Word :=
  (0 : BitVec 22) ++ bitOf s.img ++ bitOf s.busy ++ s.code.toByte

end Sys2Proof.Machine
end

