-- ==== Sys2Proof/Machine/Codec.lean ====
section
/-! DEFINITION. The codec family (40_codec.md): LOAD, SAVE, ALLOC and PRINTINFO. -/

namespace Sys2Proof.Machine

/-! ### LOAD (40_codec.md R111) -/

/-- The status the checks 1 to 11 of LOAD give, in their order; the first that fails decides (40_codec.md R111, R112). -/
def State.loadStatus (s : State) : StatusCode :=
  if s.fileLength > zext32 s.params.fbufBytes then .ioError
  else if s.fileLength < 54 then .truncatedFileError
  else if s.fileMagicOk = false then .formatError
  else if s.fileDepth ≠ 8 ∧ s.fileDepth ≠ 24 then .unsupportedFormatError
  else if s.fileDepth = 24 ∧ s.fileCompression ≠ 0 then .unsupportedFormatError
  else if s.fileDepth = 8 ∧ s.fileLength < 1078 then .truncatedFileError
  else if s.fileWidth ≤ 0 ∨ s.fileHeight ≤ 0 then .unsupportedFormatError
  else if s.fileWidth * s.fileHeight > zext32 s.params.gridPx then .capacityError
  else if s.fileDataOffset < minOffset s.fileDepth then .formatError
  else if s.fileDepth = 8 ∧ s.fileByteCount < s.fileWidth * s.fileHeight then .unsupportedFormatError
  else if s.fileNeed > s.fileLength then .truncatedFileError
  else .ok

/-- Where a 24-bit file of width `w` and height `h` with data offset `off` holds the byte that goes to GRIDMEM[a]. With
p = a div 3 = (h-1-st)·w + x, the pixel is stored row st, position x, and its bytes are b, g, r (40_codec.md R119,
30_encoding.md R97). -/
def fileAddr24 (off w h a : Nat) : Nat :=
  off + (h - 1 - a / 3 / w) * stride24 w + 3 * (a / 3 % w) + (2 - a % 3)

/-- The byte LOAD puts at GRIDMEM[a] (40_codec.md R119 for 24 bits, R120 for 8 bits). -/
def State.loadPixelByte (s : State) (a : Nat) : Byte :=
  if s.fileDepth = 24 then
    s.fbufByte (fileAddr24 s.fileDataOffset s.fileWidth.toNat s.fileHeight.toNat a)
  else s.fbufByte (s.fileDataOffset + a)

/-- The number of bytes of the image area of the file LOAD reads. -/
def State.loadArea (s : State) : Nat :=
  s.fileWidth.toNat * s.fileHeight.toNat * (if s.fileDepth = 24 then 3 else 1)

/-- What LOAD writes when every check passes (40_codec.md R121). A 24-bit LOAD leaves PAL unchanged. -/
def State.loadCommit (s : State) : State :=
  { s with
    hblob := Memory.fill s.hblob 0 54 s.fbufByte
    grid := Memory.fill s.grid 0 s.loadArea s.loadPixelByte
    pal := if s.fileDepth = 24 then s.pal else Memory.fill s.pal 0 1024 (fun a => s.fbufByte (54 + a))
    imgW := BitVec.ofInt 32 s.fileWidth
    imgH := BitVec.ofInt 32 s.fileHeight
    imgBpp := BitVec.ofNat 32 s.fileDepth
    img := true }

/-- LOAD (40_codec.md R111). A failed LOAD changes nothing but STATUS (R124). -/
def execLoad (s : State) : Host.Outcome State Fault Refusal :=
  if s.loadStatus = .ok then complete s.loadCommit else raise s.loadStatus s

/-! ### SAVE (40_codec.md R126) -/

/-- The data offset SAVE writes: 54 for 24 bits, 1078 for 8 bits. -/
def State.saveOffset (s : State) : Nat := if s.imgBpp = 24 then 54 else 1078

/-- `isz`, the image data size SAVE writes. -/
def State.saveImageSize (s : State) : Nat :=
  if s.imgBpp = 24 then stride24 s.width * s.height else s.width * s.height

/-- `fsz`, the length of the file SAVE writes. -/
def State.saveFileSize (s : State) : Nat := s.saveOffset + s.saveImageSize

/-- FBUF after SAVE wrote the 54 header bytes: a copy of HBLOB with the recomputed fields over it (40_codec.md R126, R127). -/
def State.saveHeader (s : State) : Memory 8 :=
  let m := Memory.fill s.fbuf 0 54 s.hblobByte
  let m := Memory.write (Memory.write m 0 0x42) 1 0x4D
  let m := memWrite m 2 4 s.saveFileSize
  let m := memWrite m 10 4 s.saveOffset
  let m := memWrite m 14 4 40
  let m := memWrite m 18 4 s.width
  let m := memWrite m 22 4 s.height
  let m := memWrite m 26 2 1
  let m := memWrite m 28 2 s.imgBpp.toNat
  let m := memWrite m 30 4 0
  memWrite m 34 4 s.saveImageSize

/-- Byte k of the stored rows of a 24-bit file (40_codec.md R126, R129): byte k mod stride of stored row k div stride is a
channel of grid row h-1-row in blue, green, red order, or a zero padding byte. -/
def State.saveRowByte (s : State) (k : Nat) : Byte :=
  let row := k / stride24 s.width
  let col := k % stride24 s.width
  if col < 3 * s.width then
    s.gridByte (3 * ((s.height - 1 - row) * s.width + col / 3) + (2 - col % 3))
  else 0

/-- FBUF after SAVE (40_codec.md R126). -/
def State.saveFbuf (s : State) : Memory 8 :=
  if s.imgBpp = 8 then
    Memory.fill (Memory.fill s.saveHeader 54 1024 s.palByte) 1078 (s.width * s.height) s.gridByte
  else Memory.fill s.saveHeader 54 (stride24 s.width * s.height) s.saveRowByte

/-- What SAVE writes on success: FBUF[0 .. fsz-1] and FLEN (40_codec.md R129). -/
def State.saveCommit (s : State) : State :=
  { s with fbuf := s.saveFbuf, flen := BitVec.ofNat 32 s.saveFileSize }

/-- SAVE (40_codec.md R126). A file that does not fit FBUF raises IOError and nothing is written (R128). -/
def execSave (s : State) : Host.Outcome State Fault Refusal :=
  withImage s <|
    if s.saveFileSize > zext32 s.params.fbufBytes then raise .ioError s else complete s.saveCommit

/-! ### ALLOC (40_codec.md R132) -/

/-- The status the checks of ALLOC give, in their order (40_codec.md R133). -/
def State.allocStatus (s : State) : StatusCode :=
  if s.allocWidth ≤ 0 ∨ s.allocHeight ≤ 0 then .invalidParameterError
  else if s.allocDepth ≠ 8 ∧ s.allocDepth ≠ 24 then .unsupportedFormatError
  else if s.allocWidth * s.allocHeight > zext32 s.params.gridPx then .capacityError
  else .ok

/-- Byte a of the grey-ramp palette: entry i is (i, i, i, 0) (40_codec.md R134). -/
def greyRamp (a : Nat) : Byte := if a % 4 = 3 then 0 else BitVec.ofNat 8 (a / 4)

/-- What ALLOC writes when every check passes (40_codec.md R134). -/
def State.allocCommit (s : State) : State :=
  { s with
    grid := Memory.fill s.grid 0 (s.allocWidth.toNat * s.allocHeight.toNat * channels s.arg2) (fun _ => 0)
    hblob := Memory.fill s.hblob 0 54 (fun _ => 0)
    pal := Memory.fill s.pal 0 1024 greyRamp
    imgW := BitVec.ofInt 32 s.allocWidth
    imgH := BitVec.ofInt 32 s.allocHeight
    imgBpp := BitVec.ofNat 32 s.allocDepth
    img := true }

/-- ALLOC (40_codec.md R132). -/
def execAlloc (s : State) : Host.Outcome State Fault Refusal :=
  if s.allocStatus = .ok then complete s.allocCommit else raise s.allocStatus s

/-! ### PRINTINFO (40_codec.md R138) -/

/-- PRINTINFO: only checks that an image is held. -/
def execPrintInfo (s : State) : Host.Outcome State Fault Refusal := withImage s (complete s)

end Sys2Proof.Machine
end

