-- ==== Sys2Proof/Machine/Binary64.lean ====
section
/-! DEFINITION. The binary64 arithmetic of 00_scope.md R13: every operation rounds to nearest, a tie to even. A value is
`mant · 2^exp` with a mantissa of at most 53 bits. The exponent has no bounds: no value of any rule leaves the range of
normal binary64 numbers (DEDUCED, log 10). -/

namespace Sys2Proof.Machine

/-- The binary64 value `mant · 2^exp`. -/
structure B64 where
  mant : Int
  exp : Int
deriving DecidableEq, Repr

namespace B64

/-- The value is `num / den`. -/
def num (x : B64) : Int := x.mant * 2 ^ x.exp.toNat

/-- The value is `num / den`; the denominator is a power of two. -/
def den (x : B64) : Nat := 2 ^ (-x.exp).toNat

/-- `a / d` rounded to the nearest integer, a tie to the even one. -/
def roundHalfEven (a d : Nat) : Nat :=
  let q := a / d
  if 2 * (a % d) < d then q
  else if d < 2 * (a % d) then q + 1
  else if q % 2 = 0 then q else q + 1

/-- The numerator of `a / (q · 2^e)` over a natural denominator. -/
def scaledNum (a : Nat) (e : Int) : Nat := a * 2 ^ (-e).toNat

/-- The denominator of `a / (q · 2^e)`. -/
def scaledDen (q : Nat) (e : Int) : Nat := q * 2 ^ e.toNat

/-- The exponent e with `2^52 ≤ a / (q · 2^e) < 2^53`, for a > 0 and q > 0. -/
def exponentFor (a q : Nat) : Int :=
  let e : Int := (a.log2 : Int) - (q.log2 : Int) - 52
  if scaledNum a e / scaledDen q e < 2 ^ 52 then e - 1 else e

/-- `fl(p / q)`: the binary64 value nearest the rational, a tie to even (00_scope.md R13). -/
def ofRatio (p : Int) (q : Nat) : B64 :=
  if p = 0 then ⟨0, 0⟩
  else
    let e := exponentFor p.natAbs q
    ⟨p.sign * roundHalfEven (scaledNum p.natAbs e) (scaledDen q e), e⟩

/-- An integer of magnitude below 2^53, "converted exactly to binary64" (43_equalize.md R213). -/
def ofInt (n : Int) : B64 := ⟨n, 0⟩

/-- `fl(x + y)`. -/
def add (x y : B64) : B64 := ofRatio (x.num * y.den + y.num * x.den) (x.den * y.den)

/-- `fl(x − y)`. -/
def sub (x y : B64) : B64 := ofRatio (x.num * y.den - y.num * x.den) (x.den * y.den)

/-- `fl(x · y)`. -/
def mul (x y : B64) : B64 := ofRatio (x.num * y.num) (x.den * y.den)

/-- `clamp(round(x), 0, 255)` with the round of 00_scope.md R11 applied to the binary64 value (R13). -/
def roundClamp (x : B64) : Int := clamp (roundDiv x.num x.den) 0 255

end B64

end Sys2Proof.Machine
end

