-- ==== Sys2Proof/Machine/Convolution.lean ====
section
/-! DEFINITION. The convolution engine (42_convolution.md): the common function CONV (R170), CONVOLVE (R172) and the five
presets (R178–R183). -/

namespace Sys2Proof.Machine

/-- A coordinate clamped to the nearest valid row or column: `clamp(v, 0, n − 1)` (42_convolution.md R170, R173). -/
def clampCoord (v : Int) (n : Nat) : Nat := (clamp v 0 ((n : Int) - 1)).toNat

/-- `SRC[cy(y)][cx(x)].ch`: a sample of the pre-command image, the row and the column clamped independently (R173, R175). -/
def State.sample (s : State) (y x : Int) (ch : Nat) : Int :=
  (s.pixel (clampCoord y s.height) (clampCoord x s.width) ch).toNat

/-- `S` of 42_convolution.md R170 for pixel (y, x) and channel ch, for a kernel of side n: kernel entry (i + k, j + k) weighs
the sample at row y − i, column x − j (R174). -/
def State.convSum (s : State) (K : Nat → Nat → Int) (n y x ch : Nat) : Int :=
  let k : Int := ((n : Int) - 1) / 2
  sumTo (fun (r : Nat) => sumTo (fun (c : Nat) => s.sample (y - ((r : Int) - k)) (x - ((c : Int) - k)) ch * K r c) n) n

/-- The binary64 accumulation of 42_convolution.md R177: weights `fl(K/d)`, i outer and j inner, both ascending. -/
def State.convAcc64 (s : State) (K : Nat → Nat → Int) (d n y x ch : Nat) : B64 :=
  let k : Int := ((n : Int) - 1) / 2
  (List.range n).foldl (fun acc (r : Nat) =>
    (List.range n).foldl (fun acc (c : Nat) =>
      B64.add acc (B64.mul (B64.ofInt (s.sample (y - ((r : Int) - k)) (x - ((c : Int) - k)) ch))
        (B64.ofRatio (K r c) d))) acc) (B64.ofInt 0)

/-- The result of CONV for one channel of one pixel: rounded and clamped (42_convolution.md R170, R177). -/
def State.convPixel (s : State) (K : Nat → Nat → Int) (d n y x ch : Nat) : Int :=
  match s.params.numerics with
  | .exactArith => clamp (roundDiv (s.convSum K n y x ch) d) 0 255
  | .binary64 => (s.convAcc64 K d n y x ch).roundClamp

/-- The new byte GRIDMEM[a] of the image area: address a is channel a mod C of the pixel with linear index a div C
(20_memory.md R54). -/
def State.convByte (s : State) (K : Nat → Nat → Int) (d n a : Nat) : Byte :=
  let ch := channels s.imgBpp
  byteOf (s.convPixel K d n (a / ch / s.width) (a / ch % s.width) (a % ch))

/-- `CONV(K, d, n)` (42_convolution.md R170): the whole image area at once, a function of the old grid alone (R175). SCR is
left with an unspecified value (10_state.md R39; log 5). -/
def State.conv (s : State) (K : Nat → Nat → Int) (d n : Nat) : State :=
  { s.setGrid s.imageArea (s.convByte K d n) with scrDraws := s.scrDraws + 1 }

/-! ### CONVOLVE -/

/-- The kernel of KSIZE and KDIV is legal (42_convolution.md R171). -/
def State.kernelLegal (s : State) : Bool :=
  !(decide (s.kernelSide ≤ 0) || decide (s.kernelSide % 2 = 0) ||
    decide (s.kernelSide > zext32 s.params.kmax) || decide (s.kernelDivisor ≤ 0))

/-- CONVOLVE (42_convolution.md R172). -/
def execConvolve (s : State) : Host.Outcome State Fault Refusal :=
  withImage s <|
    if s.kernelLegal = false then raise .invalidKernelError s
    else complete (s.conv (s.kernelNumerator s.kernelSide.toNat) s.kernelDivisor.toNat s.kernelSide.toNat)

/-! ### The presets (42_convolution.md R178) -/

/-- Entry (r, c) of a 3×3 matrix written row by row. -/
def matrix3 (rows : List Int) (r c : Nat) : Int := rows.getD (3 * r + c) 0

/-- `PRESET(K, d)` (42_convolution.md R178). KSIZE, KDIV and KMEM are neither read nor written. -/
def preset (rows : List Int) (d : Nat) (s : State) : Host.Outcome State Fault Refusal :=
  withImage s (complete (s.conv (matrix3 rows) d 3))

/-- The BOXBLUR weights, over 9 (42_convolution.md R179). -/
def boxBlurRows : List Int := [1, 1, 1, 1, 1, 1, 1, 1, 1]

/-- The GAUSSIAN weights, over 16 (42_convolution.md R180). -/
def gaussianRows : List Int := [1, 2, 1, 2, 4, 2, 1, 2, 1]

/-- The OUTLINE weights (42_convolution.md R181). -/
def outlineRows : List Int := [-1, -1, -1, -1, 8, -1, -1, -1, -1]

/-- The EMBOSS weights: the parameter `P_EMBOSS`, read as s32 (42_convolution.md R182, 00_scope.md R7). -/
def State.embossRows (s : State) : List Int := s.params.emboss.toList.map sext32

/-- The SHARPEN weights (42_convolution.md R183). -/
def sharpenRows : List Int := [0, -1, 0, -1, 5, -1, 0, -1, 0]

/-- BOXBLUR (42_convolution.md R179). -/
def execBoxBlur (s : State) : Host.Outcome State Fault Refusal := preset boxBlurRows 9 s

/-- GAUSSIAN (42_convolution.md R180). -/
def execGaussian (s : State) : Host.Outcome State Fault Refusal := preset gaussianRows 16 s

/-- OUTLINE (42_convolution.md R181). -/
def execOutline (s : State) : Host.Outcome State Fault Refusal := preset outlineRows 1 s

/-- EMBOSS (42_convolution.md R182). -/
def execEmboss (s : State) : Host.Outcome State Fault Refusal := preset s.embossRows 1 s

/-- SHARPEN (42_convolution.md R183). -/
def execSharpen (s : State) : Host.Outcome State Fault Refusal := preset sharpenRows 1 s

end Sys2Proof.Machine
end

