-- ==== Sys2Proof/Machine/Equalize.lean ====
section
/-! DEFINITION. The histogram equalizer (43_equalize.md): the table pipeline (R201–R204), the colour transform (R205–R209) and
EQUALIZE (R200). HIST, CDF and REMAP are local values of the command (R201); what State's copies hold afterwards is
unspecified (10_state.md R44; log 5). -/

namespace Sys2Proof.Machine

/-! ### The table pipeline -/

/-- HIST: how often each of the 256 intensities occurs, a count that never wraps (43_equalize.md R202; log 19). -/
def histogram (vals : List Nat) : List Nat := (List.range 256).map (fun v => vals.count v)

/-- The running sums of a list, starting from `acc` (43_equalize.md R201). -/
def runningSum (acc : Nat) : List Nat → List Nat
  | [] => []
  | h :: t => (acc + h) :: runningSum (acc + h) t

/-- CDF (43_equalize.md R203). -/
def cdfTable (vals : List Nat) : List Nat := runningSum 0 (histogram vals)

/-- `m`, the least index whose CDF entry is positive (43_equalize.md R201). -/
def lowestPresent (vals : List Nat) : Nat := (cdfTable vals).findIdx (fun c => decide (0 < c))

/-- `cmin = CDF[m]` (43_equalize.md R201). -/
def cdfMin (vals : List Nat) : Nat := (cdfTable vals).getD (lowestPresent vals) 0

/-- `clamp(round((c − cmin) / (N − cmin) · 255), 0, 255)` (43_equalize.md R204; R213 under BINARY64). -/
def remapEntry (num : Numerics) (c cmin n : Nat) : Nat :=
  match num with
  | .exactArith => (clamp (roundDiv (((c : Int) - cmin) * 255) (n - cmin)) 0 255).toNat
  | .binary64 => (B64.mul (B64.ofRatio ((c : Int) - cmin) (n - cmin)) (B64.ofInt 255)).roundClamp.toNat

/-- `EQ_TABLE(val, N)`: the remap table (43_equalize.md R201, R204). -/
def eqTable (num : Numerics) (vals : List Nat) (n : Nat) : List Nat :=
  let cmin := cdfMin vals
  if n = cmin then
    let m := lowestPresent vals
    (List.range 256).map (fun i => if i = m then 0 else i)
  else (cdfTable vals).map (fun c => remapEntry num c cmin n)

/-! ### The grey path (43_equalize.md R210) -/

/-- The intensities of an 8-bit image. -/
def State.greyValues (s : State) : List Nat := (List.range s.pixels).map (fun p => (s.gridByte p).toNat)

/-- EQUALIZE of an 8-bit image (43_equalize.md R200, R210). -/
def State.equalizeGrey (s : State) : State :=
  let table := eqTable s.params.numerics s.greyValues s.pixels
  s.setGrid s.pixels (fun p => BitVec.ofNat 8 (table.getD (s.gridByte p).toNat 0))

/-! ### The colour path (43_equalize.md R205–R209)

Under EXACT, Y is held over 10^3, U and V over 10^5, and a reconstructed channel over 10^10. -/

/-- 1000 · FWD_Y(R, G, B) (43_equalize.md R205). -/
def fwdY (r g b : Nat) : Int := 299 * r + 587 * g + 114 * b

/-- 100000 · FWD_U(R, G, B) (43_equalize.md R205). -/
def fwdU (r g b : Nat) : Int := -14713 * r - 28886 * g + 43600 * b

/-- 100000 · FWD_V(R, G, B) (43_equalize.md R205). -/
def fwdV (r g b : Nat) : Int := 61500 * r - 51499 * g - 10001 * b

/-- 10^10 · INV_R(Y', U, V), from 10^5 · U and 10^5 · V (43_equalize.md R208). -/
def invR (y _u v : Int) : Int := 10000000000 * y + 113983 * v

/-- 10^10 · INV_G(Y', U, V) (43_equalize.md R208). -/
def invG (y u v : Int) : Int := 10000000000 * y - 39465 * u - 58060 * v

/-- 10^10 · INV_B(Y', U, V) (43_equalize.md R208). -/
def invB (y u _v : Int) : Int := 10000000000 * y + 203211 * u

/-- `round(clamp(n / d, 0, 255))` (43_equalize.md R209). -/
def clampRound (n : Int) (d : Nat) : Int := roundDiv (clamp n 0 (255 * d)) d

/-- The binary64 value nearest a decimal literal of five places (43_equalize.md R213). -/
def lit5 (n : Int) : B64 := B64.ofRatio n 100000

/-- FWD_Y in binary64, left to right (43_equalize.md R213). -/
def fwdY64 (r g b : Nat) : B64 :=
  B64.add (B64.add (B64.mul (lit5 29900) (B64.ofInt r)) (B64.mul (lit5 58700) (B64.ofInt g)))
    (B64.mul (lit5 11400) (B64.ofInt b))

/-- FWD_U in binary64, left to right (43_equalize.md R213). -/
def fwdU64 (r g b : Nat) : B64 :=
  B64.add (B64.sub (B64.mul (lit5 (-14713)) (B64.ofInt r)) (B64.mul (lit5 28886) (B64.ofInt g)))
    (B64.mul (lit5 43600) (B64.ofInt b))

/-- FWD_V in binary64, left to right (43_equalize.md R213). -/
def fwdV64 (r g b : Nat) : B64 :=
  B64.sub (B64.sub (B64.mul (lit5 61500) (B64.ofInt r)) (B64.mul (lit5 51499) (B64.ofInt g)))
    (B64.mul (lit5 10001) (B64.ofInt b))

/-- INV_R in binary64, left to right (43_equalize.md R208, R213). -/
def invR64 (y : Int) (_u v : B64) : B64 := B64.add (B64.ofInt y) (B64.mul (lit5 113983) v)

/-- INV_G in binary64, left to right (43_equalize.md R208, R213). -/
def invG64 (y : Int) (u v : B64) : B64 :=
  B64.sub (B64.sub (B64.ofInt y) (B64.mul (lit5 39465) u)) (B64.mul (lit5 58060) v)

/-- INV_B in binary64, left to right (43_equalize.md R208, R213). -/
def invB64 (y : Int) (u _v : B64) : B64 := B64.add (B64.ofInt y) (B64.mul (lit5 203211) u)

/-- The quantised luma `yi = clamp(round(Y), 0, 255)` (43_equalize.md R206). -/
def quantisedLuma (num : Numerics) (r g b : Nat) : Nat :=
  match num with
  | .exactArith => (clamp (roundDiv (fwdY r g b) 1000) 0 255).toNat
  | .binary64 => (fwdY64 r g b).roundClamp.toNat

/-- Channel `ch` (0 = R, 1 = G, 2 = B) of a pixel rebuilt from the equalized luma and the pixel's own chroma
(43_equalize.md R207, R208, R209). -/
def rebuiltChannel (num : Numerics) (yq : Nat) (r g b ch : Nat) : Int :=
  match num with
  | .exactArith =>
    let u := fwdU r g b
    let v := fwdV r g b
    clampRound (if ch = 0 then invR yq u v else if ch = 1 then invG yq u v else invB yq u v) 10000000000
  | .binary64 =>
    let u := fwdU64 r g b
    let v := fwdV64 r g b
    let q := if ch = 0 then invR64 yq u v else if ch = 1 then invG64 yq u v else invB64 yq u v
    clampRound q.num q.den

/-- The quantised luma of 24-bit pixel p (43_equalize.md R205, R206). -/
def State.lumaOf (s : State) (p : Nat) : Nat :=
  quantisedLuma s.params.numerics (s.gridByte (3 * p)).toNat (s.gridByte (3 * p + 1)).toNat (s.gridByte (3 * p + 2)).toNat

/-- The quantised luma of every pixel of a 24-bit image. -/
def State.lumaValues (s : State) : List Nat := (List.range s.pixels).map s.lumaOf

/-- EQUALIZE of a 24-bit image (43_equalize.md R200): the table comes from the pre-command image (70_reset_and_hazards.md
R270(b)). -/
def State.equalizeColour (s : State) : State :=
  let table := eqTable s.params.numerics s.lumaValues s.pixels
  s.setGrid (3 * s.pixels) (fun a =>
    let p := a / 3
    byteOf (rebuiltChannel s.params.numerics (table.getD (s.lumaOf p) 0) (s.gridByte (3 * p)).toNat
      (s.gridByte (3 * p + 1)).toNat (s.gridByte (3 * p + 2)).toNat (a % 3)))

/-- What EQUALIZE writes (43_equalize.md R200). -/
def State.equalizeCommit (s : State) : State :=
  { (if s.imgBpp = 8 then s.equalizeGrey else s.equalizeColour) with eqDraws := s.eqDraws + 1 }

/-- EQUALIZE (43_equalize.md R200). The flat image is defined and is no failure (R204). -/
def execEqualize (s : State) : Host.Outcome State Fault Refusal := withImage s (complete s.equalizeCommit)

end Sys2Proof.Machine
end

