-- ==== Sys2Proof/Machine/Point.lean ====
section
/-! DEFINITION. The point transforms (41_point_ops.md): NEGATIVE, GRAYSCALE, BRIGHTNESS and THRESHOLD. Each writes the image
area of GRIDMEM and STATUS only (R163). -/

namespace Sys2Proof.Machine

/-- NEGATIVE (41_point_ops.md R150): each channel byte becomes 255 − byte. -/
def execNegative (s : State) : Host.Outcome State Fault Refusal :=
  withImage s <|
    complete (s.setGrid s.imageArea (fun a => byteOf (255 - (s.gridByte a).toNat)))

/-- The grey value of 24-bit pixel p: `clamp(round((R+G+B)/3), 0, 255)` (41_point_ops.md R153). -/
def State.greyOf (s : State) (p : Nat) : Int :=
  clamp (roundDiv ((s.gridByte (3 * p)).toNat + (s.gridByte (3 * p + 1)).toNat + (s.gridByte (3 * p + 2)).toNat) 3) 0 255

/-- GRAYSCALE (41_point_ops.md R153). An 8-bit image raises UnsupportedFormatError (R156). -/
def execGrayscale (s : State) : Host.Outcome State Fault Refusal :=
  withImage s <|
    if s.imgBpp ≠ 24 then raise .unsupportedFormatError s
    else complete (s.setGrid (3 * s.pixels) (fun a => byteOf (s.greyOf (a / 3))))

/-- BRIGHTNESS (41_point_ops.md R157): each channel byte becomes `clamp(byte + delta, 0, 255)`, an exact sum. -/
def execBrightness (s : State) : Host.Outcome State Fault Refusal :=
  withImage s <|
    complete (s.setGrid s.imageArea (fun a => byteOf (clamp ((s.gridByte a).toNat + s.delta) 0 255)))

/-- THRESHOLD (41_point_ops.md R160): 255 if byte ≥ cut, else 0. A 24-bit image raises UnsupportedFormatError (R162). -/
def execThreshold (s : State) : Host.Outcome State Fault Refusal :=
  withImage s <|
    if s.imgBpp ≠ 8 then raise .unsupportedFormatError s
    else complete (s.setGrid s.pixels (fun a => if ((s.gridByte a).toNat : Int) ≥ s.cut then 255 else 0))

end Sys2Proof.Machine
end

