-- ==== Sys2Proof/Machine/Dispatch.lean ====
section
/-! DEFINITION. The meaning of each command: one arm per row of spec/opcode_table.json (30_encoding.md R81). -/

namespace Sys2Proof.Machine

/-- The Engine performs a command (70_reset_and_hazards.md R267(b)). -/
def exec (i : Instr) (s : State) : Host.Outcome State Fault Refusal :=
  match i with
  | .load => Sys2Proof.Machine.execLoad s
  | .save => Sys2Proof.Machine.execSave s
  | .alloc => Sys2Proof.Machine.execAlloc s
  | .printInfo => Sys2Proof.Machine.execPrintInfo s
  | .negative => Sys2Proof.Machine.execNegative s
  | .grayscale => Sys2Proof.Machine.execGrayscale s
  | .brightness => Sys2Proof.Machine.execBrightness s
  | .threshold => Sys2Proof.Machine.execThreshold s
  | .convolve => Sys2Proof.Machine.execConvolve s
  | .boxBlur => Sys2Proof.Machine.execBoxBlur s
  | .gaussian => Sys2Proof.Machine.execGaussian s
  | .outline => Sys2Proof.Machine.execOutline s
  | .emboss => Sys2Proof.Machine.execEmboss s
  | .sharpen => Sys2Proof.Machine.execSharpen s
  | .equalize => Sys2Proof.Machine.execEqualize s

end Sys2Proof.Machine
end

