-- ==== Sys2Proof/Machine/HostPort.lean ====
section
/-! DEFINITION. The host's port (20_memory.md): which accesses are admitted (R55, R57, R58, 70_reset_and_hazards.md R272), what
a read returns and what a write does (10_state.md R23, R24, R37), and the reset event (70_reset_and_hazards.md R260). -/

namespace Sys2Proof.Machine

/-! ### The register map (10_state.md R23) -/

/-- The register at a byte offset of REG, if the offset is not reserved (10_state.md R23). -/
def regAt (offset : Nat) : Option Reg :=
  match offset with
  | 0x00 => some .cmd
  | 0x04 => some .status
  | 0x08 => some .arg0
  | 0x0C => some .arg1
  | 0x10 => some .arg2
  | 0x14 => some .flen
  | 0x18 => some .imgW
  | 0x1C => some .imgH
  | 0x20 => some .imgBpp
  | 0x24 => some .ksize
  | 0x28 => some .kdiv
  | 0x2C => some .capGridPx
  | 0x30 => some .capFbuf
  | 0x34 => some .capKmax
  | _ => none

/-- The byte offset of a register (10_state.md R23). -/
def Reg.offset : Reg → Nat
  | .cmd => 0x00
  | .status => 0x04
  | .arg0 => 0x08
  | .arg1 => 0x0C
  | .arg2 => 0x10
  | .flen => 0x14
  | .imgW => 0x18
  | .imgH => 0x1C
  | .imgBpp => 0x20
  | .ksize => 0x24
  | .kdiv => 0x28
  | .capGridPx => 0x2C
  | .capFbuf => 0x30
  | .capKmax => 0x34

/-- What a read of a register returns (10_state.md R23, R24, R25, R36). -/
def State.regRead (s : State) : Reg → Word
  | .cmd => s.cmd
  | .status => s.statusWord
  | .arg0 => s.arg0
  | .arg1 => s.arg1
  | .arg2 => s.arg2
  | .flen => s.flen
  | .imgW => s.imgW
  | .imgH => s.imgH
  | .imgBpp => s.imgBpp
  | .ksize => s.ksize
  | .kdiv => s.kdiv
  | .capGridPx => s.params.gridPx
  | .capFbuf => s.params.fbufBytes
  | .capKmax => s.params.kmax

/-- The CMD write while BUSY = 0 (10_state.md R24): CMD takes the word, BUSY is set and the word becomes the pending command.
STATUS.CODE is not changed. -/
def State.issue (s : State) (w : Word) : State := { s with cmd := w, busy := true, pending := some w }

/-- What a host write of a register does (10_state.md R23): CMD issues a command (R24), a read-only register ignores the write
(R37). -/
def State.regWrite (s : State) (r : Reg) (v : Word) : State :=
  match r with
  | .cmd => s.issue v
  | .arg0 => { s with arg0 := v }
  | .arg1 => { s with arg1 := v }
  | .arg2 => { s with arg2 := v }
  | .flen => { s with flen := v }
  | .ksize => { s with ksize := v }
  | .kdiv => { s with kdiv := v }
  | .status | .imgW | .imgH | .imgBpp | .capGridPx | .capFbuf | .capKmax => s

/-! ### Admission (20_memory.md R57, R58) -/

/-- The number of addresses of a space (20_memory.md R50). -/
def State.spaceSize (s : State) : Space → Nat
  | .reg => 4096
  | .fbuf => zext32 s.params.fbufBytes
  | .gridmem => 3 * zext32 s.params.gridPx
  | .pal => 1024
  | .hblob => 54
  | .kmem => zext32 s.params.kmax * zext32 s.params.kmax

/-- The access width of a space in bytes (20_memory.md R57). -/
def Space.unitBytes : Space → Nat
  | .reg | .kmem => 4
  | .fbuf | .gridmem | .pal | .hblob => 1

/-- The address, width and alignment checks of 20_memory.md R58, in the order width and alignment, space size, reserved offset,
image area (log 7). -/
def State.addressRefusal (s : State) (sp : Space) (a size : Nat) : Option Refusal :=
  if size ≠ sp.unitBytes ∨ (sp = .reg ∧ a % 4 ≠ 0) then some (.hostWrongWidth sp a size)
  else if s.spaceSize sp ≤ a then some (.hostOutsideSpace sp a)
  else if sp = .reg ∧ regAt a = none then some (.hostReservedOffset a)
  else if sp = .gridmem ∧ (s.img = false ∨ s.imageArea ≤ a) then some (.hostGridNotAdmitted a)
  else none

/-- Why a host read is refused, if it is (20_memory.md R58): while BUSY = 1 only a read of STATUS is admitted
(70_reset_and_hazards.md R272). -/
def State.readRefusal (s : State) (sp : Space) (a size : Nat) : Option Refusal :=
  if s.busy = true ∧ ¬(sp = .reg ∧ a = Reg.status.offset) then some (.hostWhileBusy sp a)
  else s.addressRefusal sp a size

/-- Why a host write is refused, if it is (20_memory.md R58): while BUSY = 1 no write is admitted (70_reset_and_hazards.md
R272). -/
def State.writeRefusal (s : State) (sp : Space) (a size : Nat) : Option Refusal :=
  if s.busy = true then some (.hostWhileBusy sp a) else s.addressRefusal sp a size

/-! ### The effect of an admitted access -/

/-- The unit at an address of a space, as the word the host port returns: a byte is zero-extended (log 8). -/
def State.readUnit (s : State) (sp : Space) (a : Nat) : Word :=
  match sp with
  | .reg => match regAt a with
    | some r => s.regRead r
    | none => 0
  | .fbuf => (s.fbufByte a).setWidth 32
  | .gridmem => (s.gridByte a).setWidth 32
  | .pal => (s.palByte a).setWidth 32
  | .hblob => (s.hblobByte a).setWidth 32
  | .kmem => s.kmemWord a

/-- The effect of an admitted write (20_memory.md R50, R61): a byte space takes the low byte of the value (log 8), HBLOB ignores
the write. -/
def State.writeUnit (s : State) (sp : Space) (a : Nat) (v : Word) : State :=
  match sp with
  | .reg => match regAt a with
    | some r => s.regWrite r v
    | none => s
  | .fbuf => { s with fbuf := Memory.write s.fbuf a (v.setWidth 8) }
  | .gridmem => { s with grid := Memory.write s.grid a (v.setWidth 8) }
  | .pal => { s with pal := Memory.write s.pal a (v.setWidth 8) }
  | .hblob => s
  | .kmem => { s with kmem := Memory.write s.kmem a v }

/-! ### The reset event (70_reset_and_hazards.md R260) -/

/-- The reset event: every register takes its reset value, every memory a fresh draw, and the pending command is discarded
without effect. The parameters stay (R262), and so does what lies outside the block (log 11). -/
def State.resetEvent (s : State) : State :=
  { State.resetWith s.params with
    resets := s.resets + 1
    scrDraws := s.scrDraws + 1
    eqDraws := s.eqDraws + 1
    env := s.env
    polls := s.polls
    lastRead := s.lastRead }

/-! ### One move of the outside world -/

/-- The poll schedule after one host poll: the pending command's count goes down (70_reset_and_hazards.md R268; log 1). -/
def State.pollsAfterHostMove (s : State) : List Nat :=
  if s.pending.isSome then (s.polls.headD 0 - 1) :: s.polls.tail else s.polls

/-- One host step or reset (70_reset_and_hazards.md R260, R267(a)); `rest` is what the outside world does after it. -/
def State.envMove (s : State) (e : EnvEvent) (rest : List EnvEvent) : Host.Outcome State Fault Refusal :=
  match e with
  | .reset => .next { s.resetEvent with env := rest }
  | .wait => .next { s with
      lastRead := some s.statusWord
      env := if s.busy then s.env else rest
      polls := s.pollsAfterHostMove }
  | .read sp a size => match s.readRefusal sp a size with
    | some r => .refused r
    | none => .next { s with lastRead := some (s.readUnit sp a), env := rest, polls := s.pollsAfterHostMove }
  | .write sp a size v => match s.writeRefusal sp a size with
    | some r => .refused r
    | none => .next { s.writeUnit sp a v with env := rest }

end Sys2Proof.Machine
end

