-- ==== Sys2Proof/Machine/Engine.lean ====
section
/-! DEFINITION. The execution model (70_reset_and_hazards.md R267): the Engine's step, and which agent moves next (log 1). -/

namespace Sys2Proof.Machine

/-- The Engine performs the pending command word w: the command it selects, or IllegalCommand when it selects none
(30_encoding.md R83, 70_reset_and_hazards.md R267(b)). -/
def engineStep (w : Word) (s : State) : Host.Outcome State Fault Refusal :=
  match decode w with
  | .ok i => exec i s
  | .error _ => raise .illegalCommand s

/-- With a command pending, whether the Engine moves now: the outside world has no move left, or the command's polls are used up
(70_reset_and_hazards.md R268; log 1). -/
def State.engineTurn (s : State) : Bool := s.env.isEmpty || s.polls.headD 0 == 0

/-- One step of the interleaving of host steps and Engine steps (70_reset_and_hazards.md R267). With nothing to do the block
holds its state (60_exceptions.md R247). -/
def nextMove (s : State) : Host.Outcome State Fault Refusal :=
  match s.pending, s.env with
  | some w, [] => engineStep w s
  | some w, e :: rest => if s.engineTurn then engineStep w s else s.envMove e rest
  | none, e :: rest => s.envMove e rest
  | none, [] => .next s

end Sys2Proof.Machine
end

