-- ==== Sys2Proof/Machine/HostProgram.lean ====
section
/-! DEFINITION. Host programs: the statements of 30_encoding.md R85, which map one to one onto host accesses, and the
pseudo-instructions of R86. -/

namespace Sys2Proof.Machine

/-- A host statement (30_encoding.md R85). -/
inductive HostStmt where
  /-- `WR <reg>, <v>`. -/
  | wr (r : Reg) (v : Int)
  /-- `RD <reg>`. -/
  | rd (r : Reg)
  /-- `WB <space>[<a>], <b>`. -/
  | wb (sp : Space) (a : Nat) (b : Byte)
  /-- `RB <space>[<a>]`. -/
  | rb (sp : Space) (a : Nat)
  /-- `WK <i>, <v>`. -/
  | wk (i : Nat) (v : Int)
  /-- `RK <i>`. -/
  | rk (i : Nat)
  /-- `WAIT`. -/
  | wait
deriving DecidableEq, Repr

/-- The host access of a statement; a 32-bit value is `v mod 2^32` (30_encoding.md R85). -/
def HostStmt.event : HostStmt → EnvEvent
  | .wr r v => .write .reg r.offset 4 (BitVec.ofInt 32 v)
  | .rd r => .read .reg r.offset 4
  | .wb sp a b => .write sp a 1 (b.setWidth 32)
  | .rb sp a => .read sp a 1
  | .wk i v => .write .kmem i 4 (BitVec.ofInt 32 v)
  | .rk i => .read .kmem i 4
  | .wait => .wait

/-- The state with a host program still to run. -/
def State.withHostProgram (s : State) (p : List HostStmt) : State := { s with env := p.map HostStmt.event }

/-- The expansion of a command's pseudo-instruction without operands: `WR CMD, <word> ; WAIT` (30_encoding.md R86). -/
def hostCommand (i : Instr) : List HostStmt := [.wr .cmd (encode i).toNat, .wait]

/-- `ALLOC w, h, bpp` (30_encoding.md R86). -/
def hostAlloc (w h bpp : Int) : List HostStmt :=
  [.wr .arg0 w, .wr .arg1 h, .wr .arg2 bpp] ++ hostCommand .alloc

/-- `BRIGHTNESS d` (30_encoding.md R86). -/
def hostBrightness (d : Int) : List HostStmt := .wr .arg0 d :: hostCommand .brightness

/-- `THRESHOLD t` (30_encoding.md R86). -/
def hostThreshold (t : Int) : List HostStmt := .wr .arg0 t :: hostCommand .threshold

/-- `KERNEL n, d, [k_0, …]` (30_encoding.md R86). -/
def hostKernel (n d : Int) (ks : List Int) : List HostStmt :=
  [.wr .ksize n, .wr .kdiv d] ++ (List.range ks.length).map (fun i => .wk i (ks.getD i 0))

/-- `FILE [b_0, …]` (30_encoding.md R86). -/
def hostFile (bs : List Byte) : List HostStmt :=
  (List.range bs.length).map (fun a => .wb .fbuf a (bs.getD a 0)) ++ [.wr .flen bs.length]

/-- `EXPECT <code>` reads STATUS; the comparison is the test's (30_encoding.md R86). -/
def hostExpect : List HostStmt := [.rd .status]

end Sys2Proof.Machine
end

