-- ==== Sys2Proof/Machine/Step.lean ====
section
/-! DEFINITION. The one step of the machine, and the placing of the next command. -/

namespace Sys2Proof.Machine

/-- One step: an Engine step, a host step, a reset, or nothing to do (70_reset_and_hazards.md R267). -/
def step (s : State) : Host.Outcome State Fault Refusal := nextMove s

/-- The state in which the host has just written the command word w to CMD (10_state.md R24) and the Engine moves next: the
block fetches nothing, and this write is how a command comes to run (R22; log 2). -/
def State.withFetchWord (s : State) (nbits w : Nat) : State :=
  { s.issue (BitVec.ofNat 32 (w % 2 ^ nbits)) with polls := 0 :: s.polls.tail }

end Sys2Proof.Machine
end

