-- ==== Sys2Proof/Safety.lean ====
section
/-! DEFINITION. The terms the claims use: the invariant of the block (10_state.md R33), what a step leaves unchanged
(20_memory.md R67, 60_exceptions.md R233), and the spec's exact arithmetic over the rationals (00_scope.md R10–R12), written
apart from the integer arithmetic of the machine so that a claim compares the two. -/

namespace Sys2Proof.Machine

/-! ### The invariant -/

/-- The image invariant of 10_state.md R33. -/
def State.ImageInv (s : State) : Prop :=
  (s.img = false ∧ s.imgW = 0 ∧ s.imgH = 0 ∧ s.imgBpp = 0) ∨
    (s.img = true ∧ 1 ≤ s.width ∧ 1 ≤ s.height ∧ s.width * s.height ≤ s.params.gridPx.toNat ∧
      (s.imgBpp = 8 ∨ s.imgBpp = 24))

/-- BUSY is 1 exactly while a command is pending (10_state.md R27, R46). -/
def State.BusyInv (s : State) : Prop := s.busy = s.pending.isSome

/-- Every memory is canonical (log 4). -/
structure State.CanonicalMemories (s : State) : Prop where
  fbuf : Memory.wf s.fbuf
  grid : Memory.wf s.grid
  pal : Memory.wf s.pal
  hblob : Memory.wf s.hblob
  kmem : Memory.wf s.kmem

/-- No memory has a written unit beyond its size (20_memory.md R50: "No address wraps"). -/
structure State.MemoriesWithinSize (s : State) : Prop where
  fbuf : Memory.within s.fbuf s.params.fbufBytes.toNat
  grid : Memory.within s.grid (3 * s.params.gridPx.toNat)
  pal : Memory.within s.pal 1024
  hblob : Memory.within s.hblob 54
  kmem : Memory.within s.kmem (s.params.kmax.toNat * s.params.kmax.toNat)

/-- Every byte of the image area was written since reset: no pixel of an image is a reset draw (40_codec.md R121, R134). -/
def State.ImageWritten (s : State) : Prop :=
  s.img = true → ∀ a, a < s.imageArea → Memory.lookup s.grid a ≠ none

/-- The invariant every step keeps. -/
structure State.Inv (s : State) : Prop where
  image : s.ImageInv
  busy : s.BusyInv
  canonical : s.CanonicalMemories
  within : s.MemoriesWithinSize
  written : s.ImageWritten

/-! ### What a step leaves unchanged -/

/-- Nothing changed but STATUS.CODE, STATUS.BUSY and the pending command (with its entry of the poll schedule): what
60_exceptions.md R233 allows a failing command. -/
def OnlyStatusChanged (s t : State) : Prop :=
  t = { s with code := t.code, busy := t.busy, pending := t.pending, polls := t.polls }

/-- The parameters, and the registers that only the host writes, are unchanged (10_state.md R24, R29, R34, R35, R47). -/
def SameHostRegisters (s t : State) : Prop :=
  t.params = s.params ∧ t.cmd = s.cmd ∧ t.arg0 = s.arg0 ∧ t.arg1 = s.arg1 ∧ t.arg2 = s.arg2 ∧
    t.ksize = s.ksize ∧ t.kdiv = s.kdiv

/-- IMG_W, IMG_H, IMG_BPP and STATUS.IMG are unchanged (10_state.md R28, R31, R32). -/
def SameImageRegisters (s t : State) : Prop :=
  t.img = s.img ∧ t.imgW = s.imgW ∧ t.imgH = s.imgH ∧ t.imgBpp = s.imgBpp

/-- The model's own fields outside the block are unchanged, and the poll schedule loses the ended command's entry. -/
def SameOutside (s t : State) : Prop :=
  t.resets = s.resets ∧ t.env = s.env ∧ t.polls = s.polls.tail ∧ t.lastRead = s.lastRead

/-- Every unit of a memory space reads as before. -/
def SameMemory (sp : Space) (s t : State) : Prop := ∀ a, t.readUnit sp a = s.readUnit sp a

/-- A command ended with a status code (70_reset_and_hazards.md R267(b)). -/
def Ended (c : StatusCode) (t : State) : Prop := t.code = c ∧ t.busy = false ∧ t.pending = none

/-- The frame of a command that ends with OK and writes nothing but the first `n` bytes of GRIDMEM (and STATUS):
20_memory.md R67. -/
structure WritesGridBelow (n : Nat) (s t : State) : Prop where
  ended : Ended .ok t
  hostRegisters : SameHostRegisters s t
  imageRegisters : SameImageRegisters s t
  flen : t.flen = s.flen
  outside : SameOutside s t
  grid : ∀ a, n ≤ a → t.gridByte a = s.gridByte a
  fbuf : SameMemory .fbuf s t
  pal : SameMemory .pal s t
  hblob : SameMemory .hblob s t
  kmem : SameMemory .kmem s t

/-! ### The spec's exact arithmetic -/

/-- `round(q)`: `sign(q) · floor(|q| + 1/2)` (00_scope.md R11). -/
def ratRound (q : ℚ) : ℤ := if q < 0 then -⌊|q| + 1 / 2⌋ else ⌊|q| + 1 / 2⌋

/-- `clamp(v, 0, 255)` of an integer (00_scope.md R10). -/
def clampByte (v : ℤ) : ℤ := max 0 (min v 255)

/-- `round(clamp(q, 0, 255))` (43_equalize.md R209). -/
def roundOfClamp (q : ℚ) : ℤ := ratRound (max 0 (min q 255))

/-- The nearest integer to a rational, a tie to the even one (00_scope.md R13: "nearest-even"). -/
def roundEven (q : ℚ) : ℤ :=
  if q - ⌊q⌋ < 1 / 2 then ⌊q⌋ else if 1 / 2 < q - ⌊q⌋ then ⌊q⌋ + 1 else if ⌊q⌋ % 2 = 0 then ⌊q⌋ else ⌊q⌋ + 1

/-- The distance of neighbouring binary64 values at a rational: with `2^k ≤ |q| < 2^(k+1)`, it is `2^(k-52)` (00_scope.md R13;
the exponent has no bounds, log 10). -/
def ulp (q : ℚ) : ℚ := (2 : ℚ) ^ (Int.log 2 |q| - 52)

/-- `fl(q)`, the binary64 value nearest the rational, a tie to even (00_scope.md R13). -/
def fl (q : ℚ) : ℚ := roundEven (q / ulp q) * ulp q

end Sys2Proof.Machine

/-- What P_NUMERICS makes of the exact result of one operation: the result itself under EXACT, its binary64 rounding under
BINARY64 (00_scope.md R12, R13). A rule's formula with this around every literal and every operation is the rule under either
setting. -/
def Sys2Proof.Numerics.rnd : Sys2Proof.Numerics → ℚ → ℚ
  | .exactArith, q => q
  | .binary64, q => Sys2Proof.Machine.fl q

namespace Sys2Proof.Machine

/-- `SRC[cy(y)][cx(x)].ch` of 42_convolution.md R170. -/
def clampedSample (s : State) (y x : ℤ) (ch : ℕ) : ℤ :=
  (s.pixel (max 0 (min y ((s.height : ℤ) - 1))).toNat (max 0 (min x ((s.width : ℤ) - 1))).toNat ch).toNat

/-- `S = Σ_{i=-k..k} Σ_{j=-k..k} SRC[cy(y - i)][cx(x - j)].ch * K[i+k][j+k]` (42_convolution.md R170), summed over the kernel
rows r = i + k and columns c = j + k of a kernel of side 2k + 1. -/
def convolutionSum (s : State) (K : ℕ → ℕ → ℤ) (k y x ch : ℕ) : ℤ :=
  ∑ r ∈ Finset.range (2 * k + 1), ∑ c ∈ Finset.range (2 * k + 1),
    clampedSample s (y - ((r : ℤ) - k)) (x - ((c : ℤ) - k)) ch * K r c

/-- `acc` of 42_convolution.md R177: under BINARY64 the weight is `fl(K/d)`, and `fl(acc + fl(sample · weight))` runs over the
kernel rows r = i + k (outer) and columns c = j + k (inner), both ascending. -/
def binary64Sum (s : State) (K : ℕ → ℕ → ℤ) (d : ℚ) (k y x ch : ℕ) : ℚ :=
  (List.range (2 * k + 1)).foldl (fun acc (r : ℕ) => (List.range (2 * k + 1)).foldl (fun acc (c : ℕ) =>
    fl (acc + fl (clampedSample s (y - ((r : ℤ) - k)) (x - ((c : ℤ) - k)) ch * fl (K r c / d)))) acc) 0

/-- The value CONV rounds for one channel of a pixel: the exact `S/d`, or the binary64 `acc` (42_convolution.md R170, R177). -/
def convolutionValue (s : State) (K : ℕ → ℕ → ℤ) (d : ℚ) (k y x ch : ℕ) : ℚ :=
  match s.params.numerics with
  | .exactArith => convolutionSum s K k y x ch / d
  | .binary64 => binary64Sum s K d k y x ch

/-- How many of the `n` intensities are at most `v`: CDF[v] of 43_equalize.md R203. -/
def countAtMost (val : ℕ → ℕ) (n v : ℕ) : ℕ := ((Finset.range n).filter (fun p => val p ≤ v)).card

/-- `m` is the lowest intensity present among `n` values (43_equalize.md R203). -/
def IsLowest (val : ℕ → ℕ) (n m : ℕ) : Prop := (∃ p, p < n ∧ val p = m) ∧ ∀ p, p < n → m ≤ val p

/-- The remap of intensity v (43_equalize.md R204, R213), with `m` the lowest intensity present and not every intensity equal
to it: `clamp(round((CDF[v] − cmin) / (N − cmin) · 255), 0, 255)` with `cmin = CDF[m]`; the quotient and the product are each
rounded as P_NUMERICS says. -/
def remapOf (num : Numerics) (val : ℕ → ℕ) (n m v : ℕ) : ℤ :=
  clampByte (ratRound (num.rnd
    (num.rnd (((countAtMost val n v : ℚ) - countAtMost val n m) / ((n : ℚ) - countAtMost val n m)) * 255)))

/-- FWD_Y, left to right (43_equalize.md R205, R213). -/
def lumaQ (num : Numerics) (r g b : ℚ) : ℚ :=
  let f := num.rnd
  f (f (f (f 0.299 * r) + f (f 0.587 * g)) + f (f 0.114 * b))

/-- FWD_U, left to right (43_equalize.md R205, R213). -/
def chromaU (num : Numerics) (r g b : ℚ) : ℚ :=
  let f := num.rnd
  f (f (f (f (-0.14713) * r) - f (f 0.28886 * g)) + f (f 0.436 * b))

/-- FWD_V, left to right (43_equalize.md R205, R213). -/
def chromaV (num : Numerics) (r g b : ℚ) : ℚ :=
  let f := num.rnd
  f (f (f (f 0.615 * r) - f (f 0.51499 * g)) - f (f 0.10001 * b))

/-- INV_R (43_equalize.md R208, R213). -/
def inverseR (num : Numerics) (y v : ℚ) : ℚ := num.rnd (y + num.rnd (num.rnd 1.13983 * v))

/-- INV_G, left to right (43_equalize.md R208, R213). -/
def inverseG (num : Numerics) (y u v : ℚ) : ℚ :=
  let f := num.rnd
  f (f (y - f (f 0.39465 * u)) - f (f 0.58060 * v))

/-- INV_B (43_equalize.md R208, R213). -/
def inverseB (num : Numerics) (y u : ℚ) : ℚ := num.rnd (y + num.rnd (num.rnd 2.03211 * u))

/-- The channel `ch` of byte-valued pixel p of a 24-bit image, as a rational. -/
def State.channelQ (s : State) (p ch : ℕ) : ℚ := ((s.gridByte (3 * p + ch)).toNat : ℚ)

/-- The quantised luma `yi[p] = clamp(round(Y[p]), 0, 255)` under the block's P_NUMERICS (43_equalize.md R206, R213). -/
def State.lumaIndex (s : State) (p : ℕ) : ℕ :=
  (clampByte (ratRound (lumaQ s.params.numerics (s.channelQ p 0) (s.channelQ p 1) (s.channelQ p 2)))).toNat

/-- The value of a binary64 number. -/
def B64.toRat (x : B64) : ℚ := x.mant * (2 : ℚ) ^ x.exp

/-! ### Which host accesses are forbidden -/

/-- The grounds of 20_memory.md R58 that hold for a read and a write alike: outside the space (R50), a reserved REG offset
(10_state.md R23), the wrong width or alignment (R57), or a GRIDMEM access with no image or outside the image area (R55). -/
def State.AccessForbidden (s : State) (sp : Space) (a size : Nat) : Prop :=
  (sp = .reg ∧ 4096 ≤ a) ∨ (sp = .fbuf ∧ s.params.fbufBytes.toNat ≤ a) ∨
    (sp = .gridmem ∧ 3 * s.params.gridPx.toNat ≤ a) ∨ (sp = .pal ∧ 1024 ≤ a) ∨ (sp = .hblob ∧ 54 ≤ a) ∨
    (sp = .kmem ∧ s.params.kmax.toNat * s.params.kmax.toNat ≤ a) ∨
    (sp = .reg ∧ 0x38 ≤ a) ∨
    ((sp = .reg ∨ sp = .kmem) ∧ size ≠ 4) ∨ (sp = .reg ∧ a % 4 ≠ 0) ∨
    ((sp = .fbuf ∨ sp = .gridmem ∨ sp = .pal ∨ sp = .hblob) ∧ size ≠ 1) ∨
    (sp = .gridmem ∧ (s.img = false ∨ s.imageArea ≤ a))

/-! ### When a command has its effect -/

/-- The eleven checks of LOAD in their order, each with the status it raises (40_codec.md R111). -/
def State.loadChecks (s : State) : List (Prop × StatusCode) :=
  let L : ℤ := s.flen.toNat
  let bpp := le16 s.fbufByte 28
  let w := sle32 s.fbufByte 18
  let h := sle32 s.fbufByte 22
  let off : ℤ := le32 s.fbufByte 10
  let ds : ℤ := le32 s.fbufByte 34
  let cnt : ℤ := if ds = 0 then w * h else ds
  let minoff : ℤ := if bpp = 24 then 54 else 1078
  let need : ℤ := if bpp = 24 then off + (3 * w + (4 - 3 * w % 4) % 4) * h else off + cnt
  [(L > s.params.fbufBytes.toNat, .ioError),
   (L < 54, .truncatedFileError),
   (s.fbufByte 0 ≠ 0x42 ∨ s.fbufByte 1 ≠ 0x4D, .formatError),
   (bpp ≠ 8 ∧ bpp ≠ 24, .unsupportedFormatError),
   (bpp = 24 ∧ le32 s.fbufByte 30 ≠ 0, .unsupportedFormatError),
   (bpp = 8 ∧ L < 1078, .truncatedFileError),
   (w ≤ 0 ∨ h ≤ 0, .unsupportedFormatError),
   (w * h > s.params.gridPx.toNat, .capacityError),
   (off < minoff, .formatError),
   (bpp = 8 ∧ cnt < w * h, .unsupportedFormatError),
   (need > L, .truncatedFileError)]

/-- Every check of LOAD passes (40_codec.md R111). -/
def State.LoadAccepts (s : State) : Prop := ∀ c ∈ s.loadChecks, ¬ c.1

/-- The length of the file SAVE writes (40_codec.md R126). -/
def State.savedLength (s : State) : ℕ :=
  if s.imgBpp = 24 then 54 + (3 * s.width + (4 - 3 * s.width % 4) % 4) * s.height else 1078 + s.width * s.height

/-- The condition under which an image command has its effect: an image is held, and the command's own checks pass
(41_point_ops.md R153, R160; 42_convolution.md R171; 60_exceptions.md R231). No other command is an image command. -/
def ImageCommandReady (i : Instr) (s : State) : Prop :=
  s.img = true ∧
  match i with
  | .grayscale => s.imgBpp = 24
  | .threshold => s.imgBpp = 8
  | .convolve => 0 < s.ksize.toInt ∧ s.ksize.toInt % 2 = 1 ∧ s.ksize.toInt ≤ s.params.kmax.toNat ∧ 0 < s.kdiv.toInt
  | .negative | .brightness | .boxBlur | .gaussian | .outline | .emboss | .sharpen | .equalize => True
  | .load | .save | .alloc | .printInfo => False

/-- The presets: each command with its weights, row by row, and its divisor (42_convolution.md R179–R183). -/
def presetKernels (s : State) : List (Instr × List ℤ × ℕ) :=
  [(.boxBlur, [1, 1, 1, 1, 1, 1, 1, 1, 1], 9), (.gaussian, [1, 2, 1, 2, 4, 2, 1, 2, 1], 16),
   (.outline, [-1, -1, -1, -1, 8, -1, -1, -1, -1], 1), (.emboss, s.params.emboss.toList.map BitVec.toInt, 1),
   (.sharpen, [0, -1, 0, -1, 5, -1, 0, -1, 0], 1)]

end Sys2Proof.Machine
end

