-- ==== Sys2Proof/Certificates/Slice0/Obligations.lean ====
section
/-! DEFINITION. The statements for the provers. Each docstring names the rule of spec/ the statement formalises. -/

open Sys2Proof Sys2Proof.Machine

/-! ## Encoding (30_encoding.md) -/

/-- 30_encoding.md R81 and the illegal words of 95_test_vectors.md V-COD-13: the fifteen command words, written out, decode to
their commands, and the seven illegal words to none. -/
def Obligations.CommandWordsWrittenOutDecode : Prop :=
  decode 0x00000001 = .ok .load ∧ decode 0x00000002 = .ok .save ∧ decode 0x00000003 = .ok .alloc ∧
  decode 0x00000004 = .ok .printInfo ∧ decode 0x00000010 = .ok .negative ∧ decode 0x00000011 = .ok .grayscale ∧
  decode 0x00000012 = .ok .brightness ∧ decode 0x00000013 = .ok .threshold ∧ decode 0x00000020 = .ok .convolve ∧
  decode 0x00000021 = .ok .boxBlur ∧ decode 0x00000022 = .ok .gaussian ∧ decode 0x00000023 = .ok .outline ∧
  decode 0x00000024 = .ok .emboss ∧ decode 0x00000025 = .ok .sharpen ∧ decode 0x00000030 = .ok .equalize ∧
  (∀ w ∈ ([0x00000000, 0x00000005, 0x00000014, 0x00000031, 0x000000FF, 0x00000101, 0x80000001] : List Word),
    ∀ i, decode w ≠ .ok i)

/-- 30_encoding.md R84 (with R80, R81, R83): every command word is decoded; it selects command i exactly when RSV = w[31:8] is 0
and OPC = w[7:0] is the OPC of i, so it selects at most one, and the decoder rejects it exactly when RSV ≠ 0 or OPC is not in
the map. The table's mask is 0xFFFFFFFF in every row, and decoding the word of a command gives the command back. The spec marks
R84 as derived. -/
def Obligations.DecodingIsTotalAndUnambiguous : Prop :=
  (∀ (w : Word) (i : Instr), decode w = .ok i ↔ rsvField w = 0 ∧ opcField w = opcField (encode i)) ∧
  (∀ i : Instr, rsvField (encode i) = 0 ∧ opcField (encode i) ∈ mappedOpcodes ∧ decode (encode i) = .ok i) ∧
  (∀ w : Word, (∃ e, decode w = .error e) ↔ (rsvField w ≠ 0 ∨ opcField w ∉ mappedOpcodes)) ∧
  (∀ row ∈ opcodeTable, row.mask = 0xFFFFFFFF ∧ row.value = encode row.instr)

/-! ## The execution model (70_reset_and_hazards.md, 10_state.md) -/

/-- 70_reset_and_hazards.md R267(b): when the pending word selects command i and it is the Engine's turn, the step performs i;
and the placing of a command word makes the next step perform it. Whose turn it is is the model's schedule (log 1), and the
placing of a word is the model's (log 2). -/
def Obligations.StepPerformsThePendingCommand : Prop :=
  (∀ (s : State) (w : Word) (i : Instr), s.pending = some w → s.engineTurn = true → decode w = .ok i →
    step s = exec i s) ∧
  (∀ (s : State) (i : Instr),
    step (s.withFetchWord 32 (encode i).toNat) = exec i (s.withFetchWord 32 (encode i).toNat))

/-- 30_encoding.md R83: a word with RSV ≠ 0 or an OPC that is not in the map raises IllegalCommand (8) when the Engine performs
it, and no other state changes. Whose turn it is is the model's schedule (log 1). -/
def Obligations.IllegalCommandWordRaisesCodeEight : Prop :=
  ∀ (s : State) (w : Word), s.pending = some w → s.engineTurn = true →
    (rsvField w ≠ 0 ∨ opcField w ∉ mappedOpcodes) →
    ∃ t, step s = .next t ∧ Ended .illegalCommand t ∧ t.code.toByte = 8 ∧ OnlyStatusChanged s t

/-- 70_reset_and_hazards.md R267 and 60_exceptions.md R249(a), (d), (e): from every state every command ends with a next state in
which BUSY is 0 and no command is pending. -/
def Obligations.EveryCommandEnds : Prop :=
  ∀ (i : Instr) (s : State), ∃ t, exec i s = .next t ∧ t.busy = false ∧ t.pending = none

/-- 60_exceptions.md R233: when a command raises a status other than OK, STATUS.CODE and STATUS.BUSY are all that changes. -/
def Obligations.FailedCommandChangesOnlyStatus : Prop :=
  ∀ (i : Instr) (s t : State), exec i s = .next t → t.code ≠ .ok → OnlyStatusChanged s t ∧ t.busy = false

/-- 60_exceptions.md R232: every command except LOAD and ALLOC raises InvalidParameterError (6) when no image is held, before any
other check. -/
def Obligations.NoImageRaisesInvalidParameter : Prop :=
  ∀ (i : Instr) (s : State), i ≠ .load → i ≠ .alloc → s.img = false →
    ∃ t, exec i s = .next t ∧ Ended .invalidParameterError t ∧ t.code.toByte = 6 ∧ OnlyStatusChanged s t

/-- 20_memory.md R67, its 'writes' column (with 10_state.md R24, R29–R32, R34, R35, R38, R41–R43). No command writes the
parameters, CMD, ARG0–ARG2, KSIZE, KDIV or KMEM. Only LOAD and ALLOC write IMG_W, IMG_H, IMG_BPP, STATUS.IMG, HBLOB and PAL, and a
24-bit LOAD keeps PAL. Only SAVE writes FBUF, below the length of the file it makes, and FLEN. SAVE and PRINTINFO write no byte of
GRIDMEM, and every other command none outside the image area. The spec marks R67 as derived. -/
def Obligations.CommandsWriteOnlyTheirWriteSet : Prop :=
  ∀ (i : Instr) (s t : State), exec i s = .next t →
    SameHostRegisters s t ∧ SameMemory .kmem s t ∧
    (i ≠ .load → i ≠ .alloc → SameImageRegisters s t ∧ SameMemory .hblob s t ∧ SameMemory .pal s t) ∧
    (i = .load → t.imgBpp = 24 → SameMemory .pal s t) ∧
    (i ≠ .save → SameMemory .fbuf s t ∧ t.flen = s.flen) ∧
    (i = .save → s.imgBpp = 8 ∨ s.imgBpp = 24 → ∀ a, s.savedLength ≤ a → t.fbufByte a = s.fbufByte a) ∧
    (i = .save ∨ i = .printInfo → SameMemory .gridmem s t) ∧
    (∀ a, t.imageArea ≤ a → t.gridByte a = s.gridByte a)

/-- 10_state.md R38: bytes of GRIDMEM outside the image area belong to no pixel, and no command writes them. The image area is
that of the image held after the command. -/
def Obligations.NoCommandWritesOutsideTheImageArea : Prop :=
  ∀ (i : Instr) (s t : State), exec i s = .next t → ∀ a, t.imageArea ≤ a → t.gridByte a = s.gridByte a

/-- 10_state.md R26, R28, R31, R32: while no command is pending, no host access changes STATUS.CODE, STATUS.IMG, IMG_W, IMG_H,
IMG_BPP or HBLOB. The list of outside moves is the model's (log 1). -/
def Obligations.HostAccessNeverChangesStatusOrImageRegisters : Prop :=
  ∀ (s t : State), s.pending = none → (∀ rest, s.env ≠ .reset :: rest) → step s = .next t →
    t.code = s.code ∧ SameImageRegisters s t ∧ SameMemory .hblob s t

/-! ## The invariant -/

/-- 10_state.md R33, R48: the invariant holds right after reset, for any parameters. -/
def Obligations.InvariantHoldsAfterReset : Prop :=
  (∀ p : Params, (State.resetWith p).Inv) ∧ State.reset.Inv

/-- 10_state.md R33 ("after every Engine step, exactly one of the following holds"), R27, 20_memory.md R50: every step, of the
Engine, of the host or a reset, keeps the image invariant, keeps BUSY equal to 'a command is pending', keeps every memory
canonical and within its size, and keeps every byte of the image area written. The canonical form of a memory is the model's
(log 4). -/
def Obligations.EveryStepKeepsTheInvariant : Prop :=
  ∀ (s t : State), s.Inv → step s = .next t → t.Inv

/-- 70_reset_and_hazards.md R262, 10_state.md R36: the capability registers hold the parameters from reset on, and no step changes
them. -/
def Obligations.CapabilityRegistersNeverChange : Prop :=
  (∀ p : Params, (State.resetWith p).readUnit .reg 0x2C = p.gridPx ∧ (State.resetWith p).readUnit .reg 0x30 = p.fbufBytes ∧
    (State.resetWith p).readUnit .reg 0x34 = p.kmax) ∧
  (∀ (s t : State), step s = .next t → t.readUnit .reg 0x2C = s.readUnit .reg 0x2C ∧
    t.readUnit .reg 0x30 = s.readUnit .reg 0x30 ∧ t.readUnit .reg 0x34 = s.readUnit .reg 0x34)

/-! ## Reset -/

/-- 70_reset_and_hazards.md R266: after reset STATUS and every RW and RO register read 0, the capability registers read their
parameters, and a PRINTINFO issued first ends with STATUS = 0x00000006. The spec marks R266 as derived. -/
def Obligations.ResetStateReadsAsTheSpecSays : Prop :=
  ∀ p : Params,
    (∀ a ∈ [0x00, 0x04, 0x08, 0x0C, 0x10, 0x14, 0x18, 0x1C, 0x20, 0x24, 0x28], (State.resetWith p).readUnit .reg a = 0) ∧
    (State.resetWith p).readUnit .reg 0x2C = p.gridPx ∧ (State.resetWith p).readUnit .reg 0x30 = p.fbufBytes ∧
    (State.resetWith p).readUnit .reg 0x34 = p.kmax ∧ (State.resetWith p).pending = none ∧
    ∃ t, step ((State.resetWith p).withFetchWord 32 0x00000004) = .next t ∧ t.statusWord = 0x00000006

/-- 70_reset_and_hazards.md R260, R261: a reset, while a command is pending or not, gives every register its reset value, gives
every memory a fresh draw and discards the pending command without effect; the parameters stay (R262). Whose turn it is and the
naming of the draws are the model's (log 1, log 4, log 11). -/
def Obligations.ResetEventGivesTheResetState : Prop :=
  ∀ (s : State) (rest : List EnvEvent), s.env = .reset :: rest → (s.pending = none ∨ 0 < s.polls.headD 0) →
    ∃ t, step s = .next t ∧ t.env = rest ∧ t.params = s.params ∧ t.pending = none ∧
      (∀ a ∈ [0x00, 0x04, 0x08, 0x0C, 0x10, 0x14, 0x18, 0x1C, 0x20, 0x24, 0x28], t.readUnit .reg a = 0) ∧
      (∀ a, t.fbufByte a = Config.fbufDraw (s.resets + 1) a ∧ t.gridByte a = Config.gridDraw (s.resets + 1) a ∧
        t.palByte a = Config.palDraw (s.resets + 1) a ∧ t.hblobByte a = Config.hblobDraw (s.resets + 1) a ∧
        t.kmemWord a = Config.kmemDraw (s.resets + 1) a)

/-! ## The host port (20_memory.md) -/

/-- 10_state.md R25 and 60_exceptions.md R230: CODE is bits 7:0 of STATUS, BUSY bit 8, IMG bit 9, and bits 31:10 read 0; the codes
have the numbers of R230. -/
def Obligations.StatusWordLayout : Prop :=
  (∀ s : State, s.statusWord.extractLsb' 0 8 = s.code.toByte ∧ s.statusWord.getLsbD 8 = s.busy ∧
    s.statusWord.getLsbD 9 = s.img ∧ s.statusWord.extractLsb' 10 22 = 0) ∧
  [StatusCode.ok, .ioError, .truncatedFileError, .formatError, .unsupportedFormatError, .invalidKernelError,
    .invalidParameterError, .capacityError, .illegalCommand].map StatusCode.toByte = [0, 1, 2, 3, 4, 5, 6, 7, 8]

/-- 10_state.md R24: a host write of word w to CMD while BUSY = 0 sets CMD to w, sets BUSY and makes w the pending command, changes
nothing else, and a later read of CMD returns w. -/
def Obligations.CmdWriteIssuesOneCommand : Prop :=
  ∀ (s : State) (w : Word) (rest : List EnvEvent), s.pending = none → s.busy = false →
    s.env = .write .reg 0x00 4 w :: rest →
    ∃ t, step s = .next t ∧ t = { s with cmd := w, busy := true, pending := some w, env := rest } ∧ t.readUnit .reg 0x00 = w

/-- 10_state.md R29, R30, R34, R35, R43, 20_memory.md R50: a host write of an RW register or of a unit of FBUF, PAL or KMEM
while BUSY = 0 sets that unit, and no other unit of that memory. That a byte write takes the low eight bits of a word is the
model's choice (log 8). -/
def Obligations.HostWriteSetsTheUnit : Prop :=
  (∀ (s : State) (a : Nat) (v : Word) (rest : List EnvEvent), s.pending = none → s.busy = false →
    a ∈ [0x08, 0x0C, 0x10, 0x14, 0x24, 0x28] → s.env = .write .reg a 4 v :: rest →
    ∃ t, step s = .next t ∧ t.readUnit .reg a = v ∧ (∀ b, b ≠ a → t.readUnit .reg b = s.readUnit .reg b) ∧
      t.pending = none ∧ ∀ sp, sp ≠ .reg → SameMemory sp s t) ∧
  (∀ (s : State) (sp : Space) (a : Nat) (v : Word) (rest : List EnvEvent), s.pending = none → s.busy = false →
    (sp = .fbuf ∧ a < s.params.fbufBytes.toNat ∧ s.env = .write sp a 1 v :: rest) ∨
    (sp = .pal ∧ a < 1024 ∧ s.env = .write sp a 1 v :: rest) ∨
    (sp = .kmem ∧ a < s.params.kmax.toNat * s.params.kmax.toNat ∧ s.env = .write sp a 4 v :: rest) →
    ∃ t, step s = .next t ∧ t.readUnit sp a = (if sp = .kmem then v else (v.setWidth 8).setWidth 32) ∧
      (∀ b, b ≠ a → t.readUnit sp b = s.readUnit sp b) ∧ ∀ sp', sp' ≠ sp → SameMemory sp' s t)

/-- 10_state.md R37, 20_memory.md R61, 70_reset_and_hazards.md R272: while BUSY = 0 a host write to a read-only register or to
HBLOB is ignored: no state of the block changes. While BUSY = 1 it is refused. The refusal, its name and whose turn it is are the
model's (log 1, log 7). -/
def Obligations.WritesToReadOnlyUnitsAreIgnored : Prop :=
  ∀ (s : State) (sp : Space) (a size : Nat) (v : Word) (rest : List EnvEvent), s.env = .write sp a size v :: rest →
    (sp = .reg ∧ size = 4 ∧ a ∈ [0x04, 0x18, 0x1C, 0x20, 0x2C, 0x30, 0x34]) ∨ (sp = .hblob ∧ size = 1 ∧ a < 54) →
    (s.pending = none → s.busy = false → step s = .next { s with env := rest }) ∧
    (∀ w, s.pending = some w → s.busy = true → 0 < s.polls.headD 0 → step s = .refused (.hostWhileBusy sp a))

/-- 20_memory.md R61, R50, R55: an admitted host read while BUSY = 0 returns the unit and has no side effect. The field
`lastRead` and the list of outside moves are the model's (log 1, log 8). -/
def Obligations.HostReadReturnsTheUnitWithoutSideEffect : Prop :=
  ∀ (s : State) (sp : Space) (a size : Nat) (rest : List EnvEvent), s.pending = none → s.busy = false →
    s.env = .read sp a size :: rest →
    (sp = .reg ∧ size = 4 ∧ a % 4 = 0 ∧ a < 0x38) ∨ (sp = .fbuf ∧ size = 1 ∧ a < s.params.fbufBytes.toNat) ∨
    (sp = .pal ∧ size = 1 ∧ a < 1024) ∨ (sp = .hblob ∧ size = 1 ∧ a < 54) ∨
    (sp = .kmem ∧ size = 4 ∧ a < s.params.kmax.toNat * s.params.kmax.toNat) →
    step s = .next { s with lastRead := some (s.readUnit sp a), env := rest }

/-- 20_memory.md R55: a host access to GRIDMEM is admitted exactly when it is of a single byte, BUSY = 0, IMG = 1 and the
address lies in the image area; a read returns the byte, a write of byte v sets that byte to v and no other, and any other
access is refused. A refusal stands for R58's 'no host move'; it, `lastRead` and whose turn it is are the model's (log 1, log 7,
log 8). -/
def Obligations.GridAccessAdmittedOnlyInsideTheImage : Prop :=
  ∀ (s : State) (a size : Nat) (v : Word) (rest : List EnvEvent), s.Inv → (s.pending = none ∨ 0 < s.polls.headD 0) →
    (s.env = .read .gridmem a size :: rest →
      if size = 1 ∧ s.busy = false ∧ s.img = true ∧ a < s.imageArea then
        step s = .next { s with lastRead := some ((s.gridByte a).setWidth 32), env := rest }
      else ∃ r, step s = .refused r) ∧
    (s.env = .write .gridmem a size v :: rest →
      if size = 1 ∧ s.busy = false ∧ s.img = true ∧ a < s.imageArea then
        ∃ t, step s = .next t ∧ t.gridByte a = v.setWidth 8 ∧ (∀ b, b ≠ a → t.gridByte b = s.gridByte b) ∧
          t = { s with grid := t.grid, env := rest }
      else ∃ r, step s = .refused r)

/-- 20_memory.md R58, 70_reset_and_hazards.md R272: a host access is refused when it falls outside its space, hits a reserved REG
offset, has the wrong width or alignment, or is a GRIDMEM access that R55 does not admit; while BUSY = 1 every read but that of
STATUS is refused, and every write. A refusal stands for R58's 'no host move'; its form and whose turn it is are the model's
(log 1, log 7). -/
def Obligations.ForbiddenHostAccessesAreRefused : Prop :=
  ∀ (s : State) (sp : Space) (a size : Nat) (v : Word) (rest : List EnvEvent),
    (s.pending = none ∨ 0 < s.polls.headD 0) →
    (s.AccessForbidden sp a size ∨ (s.busy = true ∧ ¬(sp = .reg ∧ a = 0x04)) → s.env = .read sp a size :: rest →
      ∃ r, step s = .refused r) ∧
    (s.AccessForbidden sp a size ∨ s.busy = true → s.env = .write sp a size v :: rest → ∃ r, step s = .refused r)

/-- 70_reset_and_hazards.md R268, R272 and 30_encoding.md R85: while a command is pending and polls are left, a read of STATUS
returns the STATUS word and counts as one poll, WAIT stays, and the block itself does not change; with BUSY = 0 a WAIT is done.
The count of polls and WAIT as one entry are the model's (log 1, log 15). -/
def Obligations.BusyHostMayPollStatus : Prop :=
  (∀ (s : State) (w : Word) (rest : List EnvEvent), s.pending = some w → s.busy = true → 0 < s.polls.headD 0 →
    (s.env = .read .reg 0x04 4 :: rest → step s = .next { s with
      lastRead := some s.statusWord, env := rest, polls := (s.polls.headD 0 - 1) :: s.polls.tail }) ∧
    (s.env = .wait :: rest → step s = .next { s with
      lastRead := some s.statusWord, polls := (s.polls.headD 0 - 1) :: s.polls.tail })) ∧
  (∀ (s : State) (rest : List EnvEvent), s.pending = none → s.busy = false → s.env = .wait :: rest →
    step s = .next { s with lastRead := some s.statusWord, env := rest })

/-- 30_encoding.md R85, R86, 10_state.md R24, 70_reset_and_hazards.md R267: the expansion of a command's pseudo-instruction, a write of
its command word to CMD and then WAIT, from a block that is not busy. The write issues the command; the Engine performs it; and
the WAIT after it reads STATUS once and is done. Between the CMD write and the Engine's step the model takes no poll here
(polls.headD 0 = 0; log 1). -/
def Obligations.HostCommandRunsTheCommand : Prop :=
  ∀ (s : State) (i : Instr), s.pending = none → s.busy = false → s.polls.headD 0 = 0 →
    ∃ u t, step (s.withHostProgram (hostCommand i)) = .next u ∧ u.cmd = encode i ∧ u.pending = some (encode i) ∧
      u.busy = true ∧ u.code = s.code ∧ u.env = [.wait] ∧ step u = exec i u ∧ exec i u = .next t ∧
      step t = .next { t with lastRead := some t.statusWord, env := [] }

/-! ## LOAD (40_codec.md) -/

/-- 40_codec.md R111, R112: the checks are made in the order 1 to 11, and the first that fails decides the status; nothing but
STATUS changes (R124). When none fails, LOAD ends with OK. -/
def Obligations.LoadChecksAreMadeInOrder : Prop :=
  ∀ s : State,
    (∀ (k : ℕ) (c : Prop × StatusCode), s.loadChecks[k]? = some c → c.1 →
      (∀ (j : ℕ) (d : Prop × StatusCode), j < k → s.loadChecks[j]? = some d → ¬ d.1) →
      ∃ t, exec .load s = .next t ∧ Ended c.2 t ∧ OnlyStatusChanged s t) ∧
    (s.LoadAccepts → ∃ t, exec .load s = .next t ∧ Ended .ok t)

/-- 40_codec.md R119, R121 (24-bit): LOAD of an accepted 24-bit file sets IMG_W, IMG_H and IMG_BPP from the header and IMG to 1,
puts stored row st, blue-green-red, at grid row h − 1 − st as red, green, blue, copies the 54 header bytes to HBLOB, leaves PAL,
FBUF, FLEN, KMEM and the host's registers unchanged, and leaves every GRIDMEM byte outside the new image area as it was. -/
def Obligations.LoadStreamsA24BitFile : Prop :=
  ∀ s : State, s.LoadAccepts → le16 s.fbufByte 28 = 24 →
    ∃ t w h, exec .load s = .next t ∧ Ended .ok t ∧ sle32 s.fbufByte 18 = (w : ℕ) ∧ sle32 s.fbufByte 22 = (h : ℕ) ∧
      t.img = true ∧ t.width = w ∧ t.height = h ∧ t.imgBpp = 24 ∧
      (∀ st x, st < h → x < w →
        let q := le32 s.fbufByte 10 + st * (3 * w + (4 - 3 * w % 4) % 4) + 3 * x
        t.pixel (h - 1 - st) x 0 = s.fbufByte (q + 2) ∧ t.pixel (h - 1 - st) x 1 = s.fbufByte (q + 1) ∧
          t.pixel (h - 1 - st) x 2 = s.fbufByte q) ∧
      (∀ a, 3 * (w * h) ≤ a → t.gridByte a = s.gridByte a) ∧
      (∀ a, a < 54 → t.hblobByte a = s.fbufByte a) ∧ (∀ a, 54 ≤ a → t.hblobByte a = s.hblobByte a) ∧
      SameMemory .pal s t ∧ SameMemory .fbuf s t ∧ SameMemory .kmem s t ∧ t.flen = s.flen ∧ SameHostRegisters s t ∧
      SameOutside s t

/-- 40_codec.md R120, R121 (8-bit): LOAD of an accepted 8-bit file sets the image registers, copies w·h bytes in file order into
GRIDMEM without row inversion and without padding, copies the palette and the header verbatim, and changes nothing else. -/
def Obligations.LoadCopiesAn8BitFileFlat : Prop :=
  ∀ s : State, s.LoadAccepts → le16 s.fbufByte 28 = 8 →
    ∃ t w h, exec .load s = .next t ∧ Ended .ok t ∧ sle32 s.fbufByte 18 = (w : ℕ) ∧ sle32 s.fbufByte 22 = (h : ℕ) ∧
      t.img = true ∧ t.width = w ∧ t.height = h ∧ t.imgBpp = 8 ∧
      (∀ k, k < w * h → t.gridByte k = s.fbufByte (le32 s.fbufByte 10 + k)) ∧
      (∀ a, w * h ≤ a → t.gridByte a = s.gridByte a) ∧
      (∀ a, a < 1024 → t.palByte a = s.fbufByte (54 + a)) ∧ (∀ a, 1024 ≤ a → t.palByte a = s.palByte a) ∧
      (∀ a, a < 54 → t.hblobByte a = s.fbufByte a) ∧ (∀ a, 54 ≤ a → t.hblobByte a = s.hblobByte a) ∧
      SameMemory .fbuf s t ∧ SameMemory .kmem s t ∧ t.flen = s.flen ∧ SameHostRegisters s t ∧ SameOutside s t

/-- 40_codec.md R123 and 20_memory.md R53: LOAD depends on the file image alone. Two states with the same parameters, the same
FLEN and the same bytes FBUF[0 .. FLEN-1] end a LOAD with the same status, and when it is OK with the same image, header and,
for 8 bits, palette; whether an image was held before does not matter, nor do the ARG registers, KMEM, KSIZE and KDIV. The spec
marks R123 as derived. -/
def Obligations.LoadDependsOnTheFileImageAlone : Prop :=
  ∀ s s' t t' : State, s'.params = s.params → s'.flen = s.flen →
    (∀ a, a < s.flen.toNat → s'.fbufByte a = s.fbufByte a) →
    exec .load s = .next t → exec .load s' = .next t' →
    t'.code = t.code ∧ (t.code = .ok →
      SameImageRegisters t t' ∧ (∀ a, a < t.imageArea → t'.gridByte a = t.gridByte a) ∧
      (∀ a, a < 54 → t'.hblobByte a = t.hblobByte a) ∧
      (t.imgBpp = 8 → ∀ a, a < 1024 → t'.palByte a = t.palByte a))

/-! ## SAVE (40_codec.md) -/

/-- 40_codec.md R127, R129: SAVE of a held image that fits FBUF writes the recomputed header fields, for both bit depths, copies the
cosmetic fields from HBLOB, and sets FLEN to the length of the file. -/
def Obligations.SaveRecomputesTheHeader : Prop :=
  ∀ s : State, s.Inv → s.img = true → s.savedLength ≤ s.params.fbufBytes.toNat →
    ∃ t, exec .save s = .next t ∧ Ended .ok t ∧ t.flen.toNat = s.savedLength ∧
      t.fbufByte 0 = 0x42 ∧ t.fbufByte 1 = 0x4D ∧ le32 t.fbufByte 2 = s.savedLength ∧
      le32 t.fbufByte 10 = (if s.imgBpp = 24 then 54 else 1078) ∧ le32 t.fbufByte 14 = 40 ∧
      le32 t.fbufByte 18 = s.width ∧ le32 t.fbufByte 22 = s.height ∧ le16 t.fbufByte 26 = 1 ∧
      le16 t.fbufByte 28 = s.imgBpp.toNat ∧ le32 t.fbufByte 30 = 0 ∧
      le32 t.fbufByte 34 + le32 t.fbufByte 10 = s.savedLength ∧
      (∀ a, 6 ≤ a → a < 10 → t.fbufByte a = s.hblobByte a) ∧ (∀ a, 38 ≤ a → a < 54 → t.fbufByte a = s.hblobByte a)

/-- 40_codec.md R129, R126, 20_memory.md R53: the pixel data SAVE writes. A 24-bit image goes bottom row first, blue-green-red, each
row followed by zero padding; an 8-bit image is the palette and then the flat run. FBUF bytes past the new length, GRIDMEM, PAL,
HBLOB, KMEM, the image registers and the host's registers are unchanged. -/
def Obligations.SaveWritesThePixelData : Prop :=
  ∀ s : State, s.Inv → s.img = true → s.savedLength ≤ s.params.fbufBytes.toNat →
    ∃ t, exec .save s = .next t ∧ Ended .ok t ∧
      (s.imgBpp = 24 → ∀ st, st < s.height →
        let row := 54 + st * (3 * s.width + (4 - 3 * s.width % 4) % 4)
        (∀ x, x < s.width → t.fbufByte (row + 3 * x) = s.pixel (s.height - 1 - st) x 2 ∧
          t.fbufByte (row + 3 * x + 1) = s.pixel (s.height - 1 - st) x 1 ∧
          t.fbufByte (row + 3 * x + 2) = s.pixel (s.height - 1 - st) x 0) ∧
        (∀ p, p < (4 - 3 * s.width % 4) % 4 → t.fbufByte (row + 3 * s.width + p) = 0)) ∧
      (s.imgBpp = 8 → (∀ a, a < 1024 → t.fbufByte (54 + a) = s.palByte a) ∧
        ∀ k, k < s.width * s.height → t.fbufByte (1078 + k) = s.gridByte k) ∧
      (∀ a, s.savedLength ≤ a → t.fbufByte a = s.fbufByte a) ∧
      SameMemory .gridmem s t ∧ SameMemory .pal s t ∧ SameMemory .hblob s t ∧ SameMemory .kmem s t ∧
      SameImageRegisters s t ∧ SameHostRegisters s t ∧ SameOutside s t

/-- 40_codec.md R128: SAVE raises IOError, and changes nothing but STATUS, when the file would not fit FBUF. -/
def Obligations.SaveThatDoesNotFitRaisesIOError : Prop :=
  ∀ s : State, s.img = true → s.savedLength > s.params.fbufBytes.toNat →
    ∃ t, exec .save s = .next t ∧ Ended .ioError t ∧ t.code.toByte = 1 ∧ OnlyStatusChanged s t

/-- 40_codec.md R130: take any file image LOAD accepts; run LOAD, then SAVE, then LOAD on the saved file image. All three
succeed, and the result has the IMG_W, IMG_H and IMG_BPP of the first LOAD, the same image area of GRIDMEM and, for 8 bits, the
same PAL. The spec marks R130 as derived. -/
def Obligations.LoadSaveLoadRoundTrip : Prop :=
  ∀ s t₁ : State, exec .load s = .next t₁ → t₁.code = .ok →
    ∃ t₂ t₃, exec .save t₁ = .next t₂ ∧ t₂.code = .ok ∧ exec .load t₂ = .next t₃ ∧ t₃.code = .ok ∧
      t₃.imgW = t₁.imgW ∧ t₃.imgH = t₁.imgH ∧ t₃.imgBpp = t₁.imgBpp ∧
      (∀ a, a < t₁.imageArea → t₃.gridByte a = t₁.gridByte a) ∧
      (t₁.imgBpp = 8 → ∀ a, a < 1024 → t₃.palByte a = t₁.palByte a)

/-- 40_codec.md R131(e): two SAVEs with no command between them write identical bytes. The spec marks R131 as derived. -/
def Obligations.SecondSaveWritesTheSameFile : Prop :=
  ∀ s t u : State, exec .save s = .next t → t.code = .ok → exec .save t = .next u →
    u.code = .ok ∧ u.flen = t.flen ∧ ∀ a, u.fbufByte a = t.fbufByte a

/-! ## ALLOC and PRINTINFO (40_codec.md) -/

/-- 40_codec.md R133: the checks of ALLOC in their order: geometry, then bit depth, then capacity. -/
def Obligations.AllocChecksAreMadeInOrder : Prop :=
  ∀ s : State,
    let w := s.arg0.toInt
    let h := s.arg1.toInt
    let bpp := s.arg2.toNat
    (w ≤ 0 ∨ h ≤ 0 → ∃ t, exec .alloc s = .next t ∧ Ended .invalidParameterError t ∧ OnlyStatusChanged s t) ∧
    (0 < w → 0 < h → bpp ≠ 8 → bpp ≠ 24 →
      ∃ t, exec .alloc s = .next t ∧ Ended .unsupportedFormatError t ∧ OnlyStatusChanged s t) ∧
    (0 < w → 0 < h → bpp = 8 ∨ bpp = 24 → w * h > s.params.gridPx.toNat →
      ∃ t, exec .alloc s = .next t ∧ Ended .capacityError t ∧ OnlyStatusChanged s t)

/-- 40_codec.md R134: ALLOC with a positive size that fits and a depth of 8 or 24 makes every byte of the new image area 0, all 54
HBLOB bytes 0, PAL the grey ramp (i, i, i, 0), the image registers the operands, and STATUS.IMG 1. Nothing else changes. -/
def Obligations.AllocMakesABlankImage : Prop :=
  ∀ s : State, 0 < s.arg0.toInt → 0 < s.arg1.toInt → s.arg2 = 8 ∨ s.arg2 = 24 →
    s.arg0.toInt * s.arg1.toInt ≤ s.params.gridPx.toNat →
    ∃ t, exec .alloc s = .next t ∧ Ended .ok t ∧ t.img = true ∧ t.imgW = s.arg0 ∧ t.imgH = s.arg1 ∧ t.imgBpp = s.arg2 ∧
      (∀ a, a < t.imageArea → t.gridByte a = 0) ∧ (∀ a, t.imageArea ≤ a → t.gridByte a = s.gridByte a) ∧
      (∀ a, a < 54 → t.hblobByte a = 0) ∧ (∀ a, 54 ≤ a → t.hblobByte a = s.hblobByte a) ∧
      (∀ i, i < 256 → t.palByte (4 * i) = BitVec.ofNat 8 i ∧ t.palByte (4 * i + 1) = BitVec.ofNat 8 i ∧
        t.palByte (4 * i + 2) = BitVec.ofNat 8 i ∧ t.palByte (4 * i + 3) = 0) ∧
      (∀ a, 1024 ≤ a → t.palByte a = s.palByte a) ∧
      SameMemory .fbuf s t ∧ SameMemory .kmem s t ∧ t.flen = s.flen ∧ SameHostRegisters s t ∧ SameOutside s t

/-- 40_codec.md R138: PRINTINFO checks that an image is held and changes nothing else: it ends with OK when one is held and with
InvalidParameterError (6) when none is. -/
def Obligations.PrintInfoOnlyReportsWhetherAnImageIsHeld : Prop :=
  ∀ s : State, ∃ t, exec .printInfo s = .next t ∧ OnlyStatusChanged s t ∧
    (s.img = true → Ended .ok t) ∧ (s.img = false → Ended .invalidParameterError t)

/-! ## The frame of the image commands (20_memory.md R67) -/

/-- 20_memory.md R67: each point transform, CONVOLVE, each preset and EQUALIZE, under either P_NUMERICS, completes with OK whenever
its checks pass, and writes nothing but the image area of GRIDMEM and STATUS. -/
def Obligations.ImageCommandsCompleteAndWriteOnlyTheImageArea : Prop :=
  ∀ (i : Instr) (s : State), ImageCommandReady i s →
    ∃ t, exec i s = .next t ∧ WritesGridBelow s.imageArea s t

/-! ## Point transforms (41_point_ops.md) -/

/-- 41_point_ops.md R150: NEGATIVE turns every byte v of the image area into 255 − v. -/
def Obligations.NegativeInvertsEveryChannelByte : Prop :=
  ∀ s : State, s.img = true →
    ∃ t, exec .negative s = .next t ∧ WritesGridBelow s.imageArea s t ∧
      ∀ a, a < s.imageArea → (t.gridByte a).toNat = 255 - (s.gridByte a).toNat

/-- 41_point_ops.md R151: NEGATIVE is involutive, 128 maps to 127 and 127 to 128, and no byte of the image is its own negative.
The spec marks R151 as derived. -/
def Obligations.NegativeIsInvolutive : Prop :=
  ∀ s : State, s.img = true →
    ∃ t u, exec .negative s = .next t ∧ exec .negative t = .next u ∧ (∀ a, u.gridByte a = s.gridByte a) ∧
      ∀ a, a < s.imageArea → t.gridByte a ≠ s.gridByte a ∧ (s.gridByte a = 128 → t.gridByte a = 127) ∧
        (s.gridByte a = 127 → t.gridByte a = 128)

/-- 41_point_ops.md R153, R155: GRAYSCALE of a 24-bit image replaces the three channels of each pixel by
`clamp(round((R+G+B)/3), 0, 255)`, which is (R+G+B+1) div 3. -/
def Obligations.GrayscaleAveragesTheChannels : Prop :=
  ∀ s : State, s.img = true → s.imgBpp = 24 →
    ∃ t, exec .grayscale s = .next t ∧ WritesGridBelow s.imageArea s t ∧
      ∀ p ch, p < s.pixels → ch < 3 →
        let sum := (s.gridByte (3 * p)).toNat + (s.gridByte (3 * p + 1)).toNat + (s.gridByte (3 * p + 2)).toNat
        ((t.gridByte (3 * p + ch)).toNat : ℤ) = clampByte (ratRound ((sum : ℚ) / 3)) ∧
          (t.gridByte (3 * p + ch)).toNat = (sum + 1) / 3

/-- 41_point_ops.md R154: GRAYSCALE leaves IMG_BPP at 24 with R = G = B in every pixel, and a second GRAYSCALE changes nothing.
The spec marks R154 as derived. -/
def Obligations.SecondGrayscaleChangesNothing : Prop :=
  ∀ s : State, s.img = true → s.imgBpp = 24 →
    ∃ t u, exec .grayscale s = .next t ∧ exec .grayscale t = .next u ∧ t.imgBpp = 24 ∧
      (∀ p, p < s.pixels → t.gridByte (3 * p) = t.gridByte (3 * p + 1) ∧ t.gridByte (3 * p) = t.gridByte (3 * p + 2)) ∧
      ∀ a, u.gridByte a = t.gridByte a

/-- 41_point_ops.md R156, R162: GRAYSCALE of an image that is not 24-bit, and THRESHOLD of one that is not 8-bit, raise
UnsupportedFormatError (4) and leave the image unchanged. -/
def Obligations.WrongBitDepthRaisesUnsupportedFormat : Prop :=
  ∀ s : State, s.img = true →
    (s.imgBpp ≠ 24 → ∃ t, exec .grayscale s = .next t ∧ Ended .unsupportedFormatError t ∧ t.code.toByte = 4 ∧
      OnlyStatusChanged s t) ∧
    (s.imgBpp ≠ 8 → ∃ t, exec .threshold s = .next t ∧ Ended .unsupportedFormatError t ∧ t.code.toByte = 4 ∧
      OnlyStatusChanged s t)

/-- 41_point_ops.md R157, R158: BRIGHTNESS turns every byte v of the image area into clamp(v + delta, 0, 255), an exact sum, for
every signed delta in ARG0. -/
def Obligations.BrightnessSaturates : Prop :=
  ∀ s : State, s.img = true →
    ∃ t, exec .brightness s = .next t ∧ WritesGridBelow s.imageArea s t ∧
      ∀ a, a < s.imageArea → ((t.gridByte a).toNat : ℤ) = clampByte ((s.gridByte a).toNat + s.arg0.toInt)

/-- 41_point_ops.md R159: BRIGHTNESS +300 takes every byte to 255, and BRIGHTNESS −300 after it takes every byte to 0. The spec
marks R159 as derived. -/
def Obligations.BrightnessUpThenDownEndsAtZero : Prop :=
  ∀ s : State, s.img = true →
    ∃ t u, exec .brightness { s with arg0 := 300 } = .next t ∧ exec .brightness { t with arg0 := -300 } = .next u ∧
      ∀ a, a < s.imageArea → t.gridByte a = 255 ∧ u.gridByte a = 0

/-- 41_point_ops.md R160: THRESHOLD of an 8-bit image turns a byte into 255 if byte ≥ cut, else 0, the comparison being of the
unsigned byte with the signed cut as integers. -/
def Obligations.ThresholdBinarises : Prop :=
  ∀ s : State, s.img = true → s.imgBpp = 8 →
    ∃ t, exec .threshold s = .next t ∧ WritesGridBelow s.imageArea s t ∧
      ∀ a, a < s.imageArea →
        ((s.arg0.toInt ≤ (s.gridByte a).toNat → t.gridByte a = 255) ∧
         ((s.gridByte a).toNat < s.arg0.toInt → t.gridByte a = 0))

/-- 41_point_ops.md R161: THRESHOLD is idempotent for every cut; cut ≤ 0 maps every byte to 255, cut ≥ 256 every byte to 0, and
cut = 255 keeps only 255. The spec marks R161 as derived. -/
def Obligations.ThresholdIsIdempotent : Prop :=
  ∀ s : State, s.img = true → s.imgBpp = 8 →
    ∃ t u, exec .threshold s = .next t ∧ exec .threshold t = .next u ∧ (∀ a, u.gridByte a = t.gridByte a) ∧
      ∀ a, a < s.imageArea → (s.arg0.toInt ≤ 0 → t.gridByte a = 255) ∧ (256 ≤ s.arg0.toInt → t.gridByte a = 0) ∧
        (s.arg0.toInt = 255 → t.gridByte a = if s.gridByte a = 255 then 255 else 0)

/-! ## Convolution (42_convolution.md) -/

/-- 42_convolution.md R171: CONVOLVE raises InvalidKernelError (5) when n ≤ 0, n is even, n > P_KMAX or d ≤ 0, and changes nothing
but STATUS. -/
def Obligations.IllegalKernelRaisesInvalidKernel : Prop :=
  ∀ s : State, s.img = true →
    (s.ksize.toInt ≤ 0 ∨ s.ksize.toInt % 2 = 0 ∨ s.ksize.toInt > s.params.kmax.toNat ∨ s.kdiv.toInt ≤ 0) →
    ∃ t, exec .convolve s = .next t ∧ Ended .invalidKernelError t ∧ t.code.toByte = 5 ∧ OnlyStatusChanged s t

/-- 42_convolution.md R170, R172, R173, R174, R176, R177, under either P_NUMERICS: CONVOLVE with a legal kernel of side n = 2k+1 and
divisor d gives every channel of every pixel the value clamp(round(q), 0, 255). Under EXACT q is S/d, where S sums the
edge-clamped samples (y − i, x − j) of the old image times the weight (i + k, j + k). Under BINARY64 q is the accumulation of R177
over the same samples, with the weights fl(K/d). The unbounded exponent of fl is the model's deduction (log 10). -/
def Obligations.ConvolveComputesTheWeightedSum : Prop :=
  ∀ (s : State) (k : ℕ), ImageCommandReady .convolve s → s.ksize.toInt = 2 * k + 1 →
    ∃ t, exec .convolve s = .next t ∧ WritesGridBelow s.imageArea s t ∧
      ∀ y x ch, y < s.height → x < s.width → ch < channels s.imgBpp →
        ((t.pixel y x ch).toNat : ℤ) = clampByte (ratRound
          (convolutionValue s (fun r c => (s.kmemWord (r * (2 * k + 1) + c)).toInt) s.kdiv.toInt k y x ch))

/-- 42_convolution.md R177–R183, under either P_NUMERICS: each preset gives every channel of every pixel the value
clamp(round(q), 0, 255), q the exact S/d or the binary64 accumulation, with its own constant 3×3 weights and divisor. The
unbounded exponent of fl is the model's deduction (log 10). -/
def Obligations.PresetsApplyTheirMatrices : Prop :=
  ∀ (s : State) (i : Instr) (rows : List ℤ) (d : ℕ), (i, rows, d) ∈ presetKernels s → s.img = true →
    ∃ t, exec i s = .next t ∧ WritesGridBelow s.imageArea s t ∧
      ∀ y x ch, y < s.height → x < s.width → ch < channels s.imgBpp →
        ((t.pixel y x ch).toNat : ℤ) =
          clampByte (ratRound (convolutionValue s (fun r c => rows.getD (3 * r + c) 0) d 1 y x ch))

/-- 42_convolution.md R178, 70_reset_and_hazards.md R274: a preset neither reads nor writes KSIZE, KDIV or KMEM. Two states that
differ in those alone get the same image, and each keeps its own kernel. -/
def Obligations.PresetsIgnoreTheUserKernel : Prop :=
  ∀ (s t t' : State) (i : Instr) (n d : Word) (m : Memory 32),
    i ∈ [Instr.boxBlur, .gaussian, .outline, .emboss, .sharpen] →
    exec i s = .next t → exec i { s with ksize := n, kdiv := d, kmem := m } = .next t' →
    t'.code = t.code ∧ (∀ a, t'.gridByte a = t.gridByte a) ∧
      t.ksize = s.ksize ∧ t.kdiv = s.kdiv ∧ t.kmem = s.kmem ∧ t'.ksize = n ∧ t'.kdiv = d ∧ t'.kmem = m

/-- 42_convolution.md R184: CONVOLVE with the identity kernel (n = 3, d = 1, a 1 in the middle of nine zeros) leaves every pixel
unchanged, under either P_NUMERICS. The spec marks R184 as derived. -/
def Obligations.IdentityKernelChangesNothing : Prop :=
  ∀ s : State, ImageCommandReady .convolve s → s.ksize = 3 → s.kdiv = 1 →
    (∀ i, i < 9 → s.kmemWord i = if i = 4 then 1 else 0) →
    ∃ t, exec .convolve s = .next t ∧ Ended .ok t ∧ ∀ a, t.gridByte a = s.gridByte a

/-- 42_convolution.md R186: GAUSSIAN, OUTLINE, SHARPEN and EMBOSS (with any integer P_EMBOSS) give the same image under EXACT
and under BINARY64, whose weights and partial sums are exact. The spec marks R186 as derived; the unbounded exponent is the
model's deduction (log 10). -/
def Obligations.IntegerPresetsAgreeInBothNumerics : Prop :=
  ∀ (s t t' : State) (i : Instr), i ∈ [Instr.gaussian, .outline, .emboss, .sharpen] →
    exec i { s with params := { s.params with numerics := .exactArith } } = .next t →
    exec i { s with params := { s.params with numerics := .binary64 } } = .next t' →
    ∀ a, t'.gridByte a = t.gridByte a

/-- 42_convolution.md R186: BOXBLUR gives the same image under EXACT and under BINARY64: the binary64 error is far below the
distance of S/9 from a half-integer. The spec marks R186 as derived; the unbounded exponent is the model's deduction (log 10).
-/
def Obligations.BoxBlurAgreesInBothNumerics : Prop :=
  ∀ s t t' : State,
    exec .boxBlur { s with params := { s.params with numerics := .exactArith } } = .next t →
    exec .boxBlur { s with params := { s.params with numerics := .binary64 } } = .next t' →
    ∀ a, t'.gridByte a = t.gridByte a

/-! ## Equalization (43_equalize.md) -/

/-- 43_equalize.md R200–R204, R210, R213, under either P_NUMERICS: EQUALIZE of an 8-bit image that is not flat replaces every byte v
by clamp(round((CDF[v] − cmin)/(N − cmin)·255), 0, 255), where CDF[v] counts the pixels of intensity at most v and cmin those of
the lowest intensity m present. Under BINARY64 the value rounded is fl(fl(diff / den) · 255). The unbounded exponent of fl is the
model's deduction (log 10). -/
def Obligations.EqualizeRemapsAnEightBitImage : Prop :=
  ∀ (s : State) (m : ℕ), s.img = true → s.imgBpp = 8 →
    IsLowest (fun p => (s.gridByte p).toNat) s.pixels m → (∃ p, p < s.pixels ∧ (s.gridByte p).toNat ≠ m) →
    ∃ t, exec .equalize s = .next t ∧ WritesGridBelow s.imageArea s t ∧
      ∀ p, p < s.pixels → ((t.gridByte p).toNat : ℤ) =
        remapOf s.params.numerics (fun q => (s.gridByte q).toNat) s.pixels m (s.gridByte p).toNat

/-- 43_equalize.md R204, R211, R214(a) under either P_NUMERICS: an 8-bit image whose pixels all hold the same value becomes all
0. The spec marks R211 and R214 as derived. -/
def Obligations.EqualizeMapsAFlatEightBitImageToZero : Prop :=
  ∀ (s : State) (v : Byte), s.img = true → s.imgBpp = 8 → 0 < s.pixels → (∀ p, p < s.pixels → s.gridByte p = v) →
    ∃ t, exec .equalize s = .next t ∧ WritesGridBelow s.imageArea s t ∧ ∀ p, p < s.pixels → t.gridByte p = 0

/-- 43_equalize.md R205–R209, R213, under either P_NUMERICS: EQUALIZE of a 24-bit image takes the quantised luma of every pixel,
remaps it (to 0 where every luma is equal), and rebuilds R, G and B from the remapped luma and the pixel's own unmodified chroma.
Under BINARY64 every literal, product and sum is rounded, left to right. The unbounded exponent of fl is the model's deduction
(log 10). -/
def Obligations.EqualizeRebuildsAColourImage : Prop :=
  ∀ (s : State) (m : ℕ), s.img = true → s.imgBpp = 24 → IsLowest s.lumaIndex s.pixels m →
    ∃ t, exec .equalize s = .next t ∧ WritesGridBelow s.imageArea s t ∧
      ∀ p, p < s.pixels →
        let num := s.params.numerics
        let yq : ℚ := if ∀ q, q < s.pixels → s.lumaIndex q = m then 0 else
          remapOf num s.lumaIndex s.pixels m (s.lumaIndex p)
        let u := chromaU num (s.channelQ p 0) (s.channelQ p 1) (s.channelQ p 2)
        let v := chromaV num (s.channelQ p 0) (s.channelQ p 1) (s.channelQ p 2)
        ((t.gridByte (3 * p)).toNat : ℤ) = roundOfClamp (inverseR num yq v) ∧
        ((t.gridByte (3 * p + 1)).toNat : ℤ) = roundOfClamp (inverseG num yq u v) ∧
        ((t.gridByte (3 * p + 2)).toNat : ℤ) = roundOfClamp (inverseB num yq u)

/-- 43_equalize.md R212 under EXACT: on an 8-bit image that is not flat, EQUALIZE keeps the order of intensities, maps the
lowest intensity present to 0 and the highest to 255. The spec marks R212 as derived. -/
def Obligations.EqualizeKeepsTheOrderOfIntensities : Prop :=
  ∀ (s : State), s.img = true → s.imgBpp = 8 → s.params.numerics = .exactArith →
    (∃ p q, p < s.pixels ∧ q < s.pixels ∧ s.gridByte p ≠ s.gridByte q) →
    ∃ t, exec .equalize s = .next t ∧
      (∀ p q, p < s.pixels → q < s.pixels → (s.gridByte p).toNat ≤ (s.gridByte q).toNat →
        (t.gridByte p).toNat ≤ (t.gridByte q).toNat) ∧
      (∀ p, p < s.pixels → (∀ q, q < s.pixels → (s.gridByte p).toNat ≤ (s.gridByte q).toNat) → t.gridByte p = 0) ∧
      (∀ p, p < s.pixels → (∀ q, q < s.pixels → (s.gridByte q).toNat ≤ (s.gridByte p).toNat) → t.gridByte p = 255)

/-- 43_equalize.md R215 under EXACT: a flat 24-bit grey image, R = G = B = g in every pixel, becomes black, because the literals
are used exactly as given. The spec marks R215 as derived. -/
def Obligations.EqualizeMakesAFlatGreyColourImageBlack : Prop :=
  ∀ (s : State) (g : Byte), s.img = true → s.imgBpp = 24 → s.params.numerics = .exactArith → 0 < s.pixels →
    (∀ a, a < 3 * s.pixels → s.gridByte a = g) →
    ∃ t, exec .equalize s = .next t ∧ WritesGridBelow s.imageArea s t ∧ ∀ a, a < 3 * s.pixels → t.gridByte a = 0

/-! ## Arithmetic (00_scope.md) -/

/-- 00_scope.md R11: the machine's `round(n / d)` is sign(q)·floor(|q| + 1/2) of the rational q = n/d: to nearest, a tie away from
zero; and R11's four examples. -/
def Obligations.RoundingIsToNearestTiesAway : Prop :=
  (∀ (n : ℤ) (d : ℕ), 0 < d → roundDiv n d = ratRound ((n : ℚ) / d)) ∧
  ratRound (2.5 : ℚ) = 3 ∧ ratRound (-2.5 : ℚ) = -3 ∧ ratRound (2.4 : ℚ) = 2 ∧ ratRound (-0.4 : ℚ) = 0

/-- 00_scope.md R13: each operation of the machine's binary64 arithmetic, add, sub, mul and the quotient of two integers, is fl of
the exact result, an integer converts exactly, and the final rounding is that of R11 of the value. fl(p/q) is a nearest value with
a 53-bit mantissa, and on a tie its mantissa is even; an integer of magnitude at most 2^53 is held exactly. The unbounded exponent
is the model's deduction (log 10). -/
def Obligations.BinaryArithmeticRoundsToNearestEven : Prop :=
  (∀ x y : B64, (B64.add x y).toRat = fl (x.toRat + y.toRat) ∧ (B64.sub x y).toRat = fl (x.toRat - y.toRat) ∧
    (B64.mul x y).toRat = fl (x.toRat * y.toRat) ∧ x.roundClamp = clampByte (ratRound x.toRat)) ∧
  (∀ n : ℤ, (B64.ofInt n).toRat = n) ∧
  (∀ (p : ℤ) (q : ℕ), 0 < q → (B64.ofRatio p q).toRat = fl ((p : ℚ) / q)) ∧
  ∀ (p : ℤ) (q : ℕ), 0 < q → p ≠ 0 →
    let x := B64.ofRatio p q
    2 ^ 52 ≤ x.mant.natAbs ∧ x.mant.natAbs ≤ 2 ^ 53 ∧
    (∀ (m e : ℤ), m.natAbs ≤ 2 ^ 53 → |(p : ℚ) / q - x.toRat| ≤ |(p : ℚ) / q - m * (2 : ℚ) ^ e|) ∧
    (|(p : ℚ) / q - x.toRat| = (2 : ℚ) ^ (x.exp - 1) → x.mant % 2 = 0) ∧
    (q = 1 → p.natAbs ≤ 2 ^ 53 → x.toRat = p)
end

