-- ==== Sys2Proof/Laws/Memory.lean ====
section
/-! SUPPORT. The laws of canonical memories (log 4): what a lookup finds after a fill, that a fill keeps the canonical form and
the size of its space, and that two canonical memories that look up alike are equal. -/

namespace Sys2Proof.Machine.Memory

variable {w : Nat}

@[simp] theorem lookup_nil (a : Nat) : lookup ([] : Memory w) a = none := rfl

theorem lookup_cons (k : Nat) (v : BitVec w) (m : Memory w) (a : Nat) :
    lookup ((k, v) :: m) a = if k = a then some v else lookup m a := rfl

theorem lookup_append (m m' : Memory w) (a : Nat) :
    lookup (m ++ m') a = (lookup m a).or (lookup m' a) := by
  induction m with
  | nil => rfl
  | cons c m ih =>
    obtain ⟨k, v⟩ := c
    simp only [List.cons_append, lookup_cons, ih]
    split <;> simp

/-- A filter that looks at the address alone keeps or drops what an address holds. -/
theorem lookup_filter (p : Nat → Bool) (m : Memory w) (a : Nat) :
    lookup (m.filter (fun c => p c.1)) a = if p a then lookup m a else none := by
  induction m with
  | nil => simp
  | cons c m ih =>
    obtain ⟨k, v⟩ := c
    by_cases hk : k = a
    · subst hk
      cases h : p k <;> simp [h, lookup_cons, ih]
    · cases h : p k <;> simp [h, lookup_cons, ih, hk]

theorem lookup_eq_none_of_forall_ne {m : Memory w} {a : Nat} (h : ∀ c ∈ m, c.1 ≠ a) : lookup m a = none := by
  induction m with
  | nil => rfl
  | cons c m ih =>
    obtain ⟨k, v⟩ := c
    have hk : k ≠ a := h (k, v) (by simp)
    rw [lookup_cons, if_neg hk]
    exact ih fun c hc => h c (by simp [hc])

/-- The block of consecutive units a fill writes. -/
theorem lookup_block (lo n : Nat) (f : Nat → BitVec w) (a : Nat) :
    lookup ((List.range n).map (fun t => (lo + t, f t))) a =
      if lo ≤ a ∧ a < lo + n then some (f (a - lo)) else none := by
  induction n with
  | zero =>
    simp
  | succ n ih =>
    rw [List.range_succ, List.map_append, lookup_append, ih]
    by_cases h1 : lo ≤ a ∧ a < lo + n
    · have h2 : lo ≤ a ∧ a < lo + (n + 1) := by omega
      simp [h1, h2]
    · by_cases h2 : a = lo + n
      · subst h2
        simp [lookup_cons]
      · have h3 : ¬(lo ≤ a ∧ a < lo + (n + 1)) := by omega
        have h4 : lo + n ≠ a := fun h => h2 h.symm
        simp [h1, h3, h4, lookup_cons]

/-- What a lookup finds after a fill: the new unit inside the block, the old one outside. -/
theorem lookup_fill (m : Memory w) (lo n : Nat) (f : Nat → BitVec w) (a : Nat) :
    lookup (fill m lo n f) a = if lo ≤ a ∧ a < lo + n then some (f (a - lo)) else lookup m a := by
  rw [fill, lookup_append, lookup_append, lookup_block,
    lookup_filter (fun k => decide (k < lo)), lookup_filter (fun k => decide (lo + n ≤ k))]
  by_cases h1 : a < lo
  · have h2 : ¬(lo ≤ a ∧ a < lo + n) := by omega
    have h3 : ¬(lo + n ≤ a) := by omega
    simp [h1, h2, h3]
  · by_cases h2 : a < lo + n
    · have h3 : lo ≤ a ∧ a < lo + n := by omega
      simp [h1, h3]
    · have h3 : ¬(lo ≤ a ∧ a < lo + n) := by omega
      have h4 : lo + n ≤ a := by omega
      simp [h1, h3, h4]

theorem lookup_write (m : Memory w) (a b : Nat) (v : BitVec w) :
    lookup (write m a v) b = if b = a then some v else lookup m b := by
  rw [write, lookup_fill]
  by_cases h : b = a
  · subst h; simp
  · have h' : ¬(a ≤ b ∧ b < a + 1) := by omega
    rw [if_neg h', if_neg h]

theorem lookup_write_same (m : Memory w) (a : Nat) (v : BitVec w) : lookup (write m a v) a = some v := by
  simp [lookup_write]

theorem lookup_write_other (m : Memory w) {a b : Nat} (v : BitVec w) (h : b ≠ a) :
    lookup (write m a v) b = lookup m b := by
  simp [lookup_write, h]

/-! ### The canonical form is kept -/

@[simp] theorem wf_nil : wf ([] : Memory w) := ⟨.nil, by simp⟩

theorem wf_iff (m : Memory w) : wf m ↔ m.Pairwise (fun c d => c.1 < d.1) :=
  ⟨fun h => h.1, fun h => ⟨h, fun _ _ => by simp [unlisted]⟩⟩

theorem block_pairwise (lo n : Nat) (f : Nat → BitVec w) :
    ((List.range n).map (fun t => (lo + t, f t))).Pairwise (fun c d => c.1 < d.1) := by
  rw [List.pairwise_map]
  exact List.pairwise_lt_range.imp fun h => by simpa using h

/-- Every unit of a filled memory is an old one outside the block or a new one inside it. -/
theorem mem_fill {m : Memory w} {lo n : Nat} {f : Nat → BitVec w} {c : Nat × BitVec w} (h : c ∈ fill m lo n f) :
    (c ∈ m ∧ (c.1 < lo ∨ lo + n ≤ c.1)) ∨ (lo ≤ c.1 ∧ c.1 < lo + n) := by
  simp only [fill, List.mem_append, List.mem_filter, List.mem_map, List.mem_range, decide_eq_true_eq] at h
  obtain (⟨h1, h2⟩ | ⟨t, ht, rfl⟩) | ⟨h1, h2⟩ := h
  · exact .inl ⟨h1, .inl h2⟩
  · exact .inr (by simp only; omega)
  · exact .inl ⟨h1, .inr h2⟩

/-- A fill keeps the canonical form. -/
theorem wf_fill {m : Memory w} (h : wf m) (lo n : Nat) (f : Nat → BitVec w) : wf (fill m lo n f) := by
  rw [wf_iff] at h ⊢
  rw [fill, List.pairwise_append, List.pairwise_append]
  refine ⟨⟨h.filter _, block_pairwise lo n f, ?_⟩, h.filter _, ?_⟩
  · intro c hc d hd
    simp only [List.mem_filter, decide_eq_true_eq] at hc
    simp only [List.mem_map] at hd
    obtain ⟨t, -, rfl⟩ := hd
    simp only
    omega
  · intro c hc d hd
    simp only [List.mem_append, List.mem_filter, List.mem_map, List.mem_range, decide_eq_true_eq] at hc hd
    obtain ⟨-, hc⟩ | ⟨t, ht, rfl⟩ := hc
    · omega
    · simp only; omega

theorem wf_write {m : Memory w} (h : wf m) (a : Nat) (v : BitVec w) : wf (write m a v) := wf_fill h _ _ _

theorem within_fill {m : Memory w} {size lo n : Nat} (h : within m size) (hn : lo + n ≤ size)
    (f : Nat → BitVec w) : within (fill m lo n f) size := by
  intro c hc
  obtain ⟨hm, -⟩ | ⟨-, h2⟩ := mem_fill hc
  · exact h c hm
  · omega

theorem within_write {m : Memory w} {size a : Nat} (h : within m size) (ha : a < size) (v : BitVec w) :
    within (write m a v) size := within_fill h (by omega) _

/-! ### Equal lookups, equal memories -/

theorem lookup_eq_none_of_lt {k : Nat} {v : BitVec w} {m : Memory w} (h : wf ((k, v) :: m)) {a : Nat} (ha : a ≤ k) :
    lookup m a = none := by
  refine lookup_eq_none_of_forall_ne fun c hc => ?_
  have := (List.pairwise_cons.1 h.1).1 c hc
  simp only at this
  omega

theorem wf_tail {c : Nat × BitVec w} {m : Memory w} (h : wf (c :: m)) : wf m :=
  (wf_iff m).2 (List.pairwise_cons.1 h.1).2

/-- Two canonical memories that look up alike are the same list: equal memories are equal data. -/
theorem ext_of_wf : ∀ {m m' : Memory w}, wf m → wf m' → (∀ a, lookup m a = lookup m' a) → m = m'
  | [], [], _, _, _ => rfl
  | [], (k, v) :: m', _, _, h => by
    have := h k
    simp [lookup_cons] at this
  | (k, v) :: m, [], _, _, h => by
    have := h k
    simp [lookup_cons] at this
  | (k, v) :: m, (k', v') :: m', hm, hm', h => by
    have hk : k = k' := by
      by_contra hne
      rcases Nat.lt_or_gt_of_ne hne with hlt | hgt
      · have := h k
        rw [lookup_cons, if_pos rfl, lookup_cons, if_neg (by omega), lookup_eq_none_of_lt hm' (by omega)] at this
        simp at this
      · have := h k'
        rw [lookup_cons, if_neg (by omega), lookup_eq_none_of_lt hm (by omega), lookup_cons, if_pos rfl] at this
        simp at this
    subst hk
    have hv : v = v' := by simpa [lookup_cons] using h k
    subst hv
    have ht : m = m' := ext_of_wf (wf_tail hm) (wf_tail hm') fun a => by
      by_cases ha : k = a
      · subst ha
        rw [lookup_eq_none_of_lt hm (Nat.le_refl _), lookup_eq_none_of_lt hm' (Nat.le_refl _)]
      · simpa [lookup_cons, ha] using h a
    rw [ht]

end Sys2Proof.Machine.Memory
end

