-- ==== Sys2Proof/Laws/State.lean ====
section
/-! SUPPORT. One lemma per field per named update of State, each true by unfolding the update, so that no later proof unfolds a
record update. -/

namespace Sys2Proof.Machine.State

variable (s : State)

/-! ### `finish` -/

@[simp] theorem finish_params (c : StatusCode) : (s.finish c).params = s.params := rfl
@[simp] theorem finish_cmd (c : StatusCode) : (s.finish c).cmd = s.cmd := rfl
@[simp] theorem finish_code (c : StatusCode) : (s.finish c).code = c := rfl
@[simp] theorem finish_busy (c : StatusCode) : (s.finish c).busy = false := rfl
@[simp] theorem finish_img (c : StatusCode) : (s.finish c).img = s.img := rfl
@[simp] theorem finish_arg0 (c : StatusCode) : (s.finish c).arg0 = s.arg0 := rfl
@[simp] theorem finish_arg1 (c : StatusCode) : (s.finish c).arg1 = s.arg1 := rfl
@[simp] theorem finish_arg2 (c : StatusCode) : (s.finish c).arg2 = s.arg2 := rfl
@[simp] theorem finish_flen (c : StatusCode) : (s.finish c).flen = s.flen := rfl
@[simp] theorem finish_imgW (c : StatusCode) : (s.finish c).imgW = s.imgW := rfl
@[simp] theorem finish_imgH (c : StatusCode) : (s.finish c).imgH = s.imgH := rfl
@[simp] theorem finish_imgBpp (c : StatusCode) : (s.finish c).imgBpp = s.imgBpp := rfl
@[simp] theorem finish_ksize (c : StatusCode) : (s.finish c).ksize = s.ksize := rfl
@[simp] theorem finish_kdiv (c : StatusCode) : (s.finish c).kdiv = s.kdiv := rfl
@[simp] theorem finish_fbuf (c : StatusCode) : (s.finish c).fbuf = s.fbuf := rfl
@[simp] theorem finish_grid (c : StatusCode) : (s.finish c).grid = s.grid := rfl
@[simp] theorem finish_pal (c : StatusCode) : (s.finish c).pal = s.pal := rfl
@[simp] theorem finish_hblob (c : StatusCode) : (s.finish c).hblob = s.hblob := rfl
@[simp] theorem finish_kmem (c : StatusCode) : (s.finish c).kmem = s.kmem := rfl
@[simp] theorem finish_pending (c : StatusCode) : (s.finish c).pending = none := rfl
@[simp] theorem finish_resets (c : StatusCode) : (s.finish c).resets = s.resets := rfl
@[simp] theorem finish_scrDraws (c : StatusCode) : (s.finish c).scrDraws = s.scrDraws := rfl
@[simp] theorem finish_eqDraws (c : StatusCode) : (s.finish c).eqDraws = s.eqDraws := rfl
@[simp] theorem finish_env (c : StatusCode) : (s.finish c).env = s.env := rfl
@[simp] theorem finish_polls (c : StatusCode) : (s.finish c).polls = s.polls.tail := rfl
@[simp] theorem finish_lastRead (c : StatusCode) : (s.finish c).lastRead = s.lastRead := rfl

/-! ### `setGrid` -/

@[simp] theorem setGrid_params (n : Nat) (f : Nat → Byte) : (s.setGrid n f).params = s.params := rfl
@[simp] theorem setGrid_cmd (n : Nat) (f : Nat → Byte) : (s.setGrid n f).cmd = s.cmd := rfl
@[simp] theorem setGrid_code (n : Nat) (f : Nat → Byte) : (s.setGrid n f).code = s.code := rfl
@[simp] theorem setGrid_busy (n : Nat) (f : Nat → Byte) : (s.setGrid n f).busy = s.busy := rfl
@[simp] theorem setGrid_img (n : Nat) (f : Nat → Byte) : (s.setGrid n f).img = s.img := rfl
@[simp] theorem setGrid_arg0 (n : Nat) (f : Nat → Byte) : (s.setGrid n f).arg0 = s.arg0 := rfl
@[simp] theorem setGrid_arg1 (n : Nat) (f : Nat → Byte) : (s.setGrid n f).arg1 = s.arg1 := rfl
@[simp] theorem setGrid_arg2 (n : Nat) (f : Nat → Byte) : (s.setGrid n f).arg2 = s.arg2 := rfl
@[simp] theorem setGrid_flen (n : Nat) (f : Nat → Byte) : (s.setGrid n f).flen = s.flen := rfl
@[simp] theorem setGrid_imgW (n : Nat) (f : Nat → Byte) : (s.setGrid n f).imgW = s.imgW := rfl
@[simp] theorem setGrid_imgH (n : Nat) (f : Nat → Byte) : (s.setGrid n f).imgH = s.imgH := rfl
@[simp] theorem setGrid_imgBpp (n : Nat) (f : Nat → Byte) : (s.setGrid n f).imgBpp = s.imgBpp := rfl
@[simp] theorem setGrid_ksize (n : Nat) (f : Nat → Byte) : (s.setGrid n f).ksize = s.ksize := rfl
@[simp] theorem setGrid_kdiv (n : Nat) (f : Nat → Byte) : (s.setGrid n f).kdiv = s.kdiv := rfl
@[simp] theorem setGrid_fbuf (n : Nat) (f : Nat → Byte) : (s.setGrid n f).fbuf = s.fbuf := rfl
@[simp] theorem setGrid_grid (n : Nat) (f : Nat → Byte) : (s.setGrid n f).grid = Memory.fill s.grid 0 n f := rfl
@[simp] theorem setGrid_pal (n : Nat) (f : Nat → Byte) : (s.setGrid n f).pal = s.pal := rfl
@[simp] theorem setGrid_hblob (n : Nat) (f : Nat → Byte) : (s.setGrid n f).hblob = s.hblob := rfl
@[simp] theorem setGrid_kmem (n : Nat) (f : Nat → Byte) : (s.setGrid n f).kmem = s.kmem := rfl
@[simp] theorem setGrid_pending (n : Nat) (f : Nat → Byte) : (s.setGrid n f).pending = s.pending := rfl
@[simp] theorem setGrid_resets (n : Nat) (f : Nat → Byte) : (s.setGrid n f).resets = s.resets := rfl
@[simp] theorem setGrid_scrDraws (n : Nat) (f : Nat → Byte) : (s.setGrid n f).scrDraws = s.scrDraws := rfl
@[simp] theorem setGrid_eqDraws (n : Nat) (f : Nat → Byte) : (s.setGrid n f).eqDraws = s.eqDraws := rfl
@[simp] theorem setGrid_env (n : Nat) (f : Nat → Byte) : (s.setGrid n f).env = s.env := rfl
@[simp] theorem setGrid_polls (n : Nat) (f : Nat → Byte) : (s.setGrid n f).polls = s.polls := rfl
@[simp] theorem setGrid_lastRead (n : Nat) (f : Nat → Byte) : (s.setGrid n f).lastRead = s.lastRead := rfl

/-! ### `issue` -/

@[simp] theorem issue_params (w : Word) : (s.issue w).params = s.params := rfl
@[simp] theorem issue_cmd (w : Word) : (s.issue w).cmd = w := rfl
@[simp] theorem issue_code (w : Word) : (s.issue w).code = s.code := rfl
@[simp] theorem issue_busy (w : Word) : (s.issue w).busy = true := rfl
@[simp] theorem issue_img (w : Word) : (s.issue w).img = s.img := rfl
@[simp] theorem issue_arg0 (w : Word) : (s.issue w).arg0 = s.arg0 := rfl
@[simp] theorem issue_arg1 (w : Word) : (s.issue w).arg1 = s.arg1 := rfl
@[simp] theorem issue_arg2 (w : Word) : (s.issue w).arg2 = s.arg2 := rfl
@[simp] theorem issue_flen (w : Word) : (s.issue w).flen = s.flen := rfl
@[simp] theorem issue_imgW (w : Word) : (s.issue w).imgW = s.imgW := rfl
@[simp] theorem issue_imgH (w : Word) : (s.issue w).imgH = s.imgH := rfl
@[simp] theorem issue_imgBpp (w : Word) : (s.issue w).imgBpp = s.imgBpp := rfl
@[simp] theorem issue_ksize (w : Word) : (s.issue w).ksize = s.ksize := rfl
@[simp] theorem issue_kdiv (w : Word) : (s.issue w).kdiv = s.kdiv := rfl
@[simp] theorem issue_fbuf (w : Word) : (s.issue w).fbuf = s.fbuf := rfl
@[simp] theorem issue_grid (w : Word) : (s.issue w).grid = s.grid := rfl
@[simp] theorem issue_pal (w : Word) : (s.issue w).pal = s.pal := rfl
@[simp] theorem issue_hblob (w : Word) : (s.issue w).hblob = s.hblob := rfl
@[simp] theorem issue_kmem (w : Word) : (s.issue w).kmem = s.kmem := rfl
@[simp] theorem issue_pending (w : Word) : (s.issue w).pending = some w := rfl
@[simp] theorem issue_resets (w : Word) : (s.issue w).resets = s.resets := rfl
@[simp] theorem issue_scrDraws (w : Word) : (s.issue w).scrDraws = s.scrDraws := rfl
@[simp] theorem issue_eqDraws (w : Word) : (s.issue w).eqDraws = s.eqDraws := rfl
@[simp] theorem issue_env (w : Word) : (s.issue w).env = s.env := rfl
@[simp] theorem issue_polls (w : Word) : (s.issue w).polls = s.polls := rfl
@[simp] theorem issue_lastRead (w : Word) : (s.issue w).lastRead = s.lastRead := rfl

/-! ### `loadCommit` -/

@[simp] theorem loadCommit_params : (s.loadCommit).params = s.params := rfl
@[simp] theorem loadCommit_cmd : (s.loadCommit).cmd = s.cmd := rfl
@[simp] theorem loadCommit_code : (s.loadCommit).code = s.code := rfl
@[simp] theorem loadCommit_busy : (s.loadCommit).busy = s.busy := rfl
@[simp] theorem loadCommit_img : (s.loadCommit).img = true := rfl
@[simp] theorem loadCommit_arg0 : (s.loadCommit).arg0 = s.arg0 := rfl
@[simp] theorem loadCommit_arg1 : (s.loadCommit).arg1 = s.arg1 := rfl
@[simp] theorem loadCommit_arg2 : (s.loadCommit).arg2 = s.arg2 := rfl
@[simp] theorem loadCommit_flen : (s.loadCommit).flen = s.flen := rfl
@[simp] theorem loadCommit_imgW : (s.loadCommit).imgW = BitVec.ofInt 32 s.fileWidth := rfl
@[simp] theorem loadCommit_imgH : (s.loadCommit).imgH = BitVec.ofInt 32 s.fileHeight := rfl
@[simp] theorem loadCommit_imgBpp : (s.loadCommit).imgBpp = BitVec.ofNat 32 s.fileDepth := rfl
@[simp] theorem loadCommit_ksize : (s.loadCommit).ksize = s.ksize := rfl
@[simp] theorem loadCommit_kdiv : (s.loadCommit).kdiv = s.kdiv := rfl
@[simp] theorem loadCommit_fbuf : (s.loadCommit).fbuf = s.fbuf := rfl
@[simp] theorem loadCommit_grid : (s.loadCommit).grid = Memory.fill s.grid 0 s.loadArea s.loadPixelByte := rfl
@[simp] theorem loadCommit_pal : (s.loadCommit).pal = if s.fileDepth = 24 then s.pal else Memory.fill s.pal 0 1024 (fun a => s.fbufByte (54 + a)) := rfl
@[simp] theorem loadCommit_hblob : (s.loadCommit).hblob = Memory.fill s.hblob 0 54 s.fbufByte := rfl
@[simp] theorem loadCommit_kmem : (s.loadCommit).kmem = s.kmem := rfl
@[simp] theorem loadCommit_pending : (s.loadCommit).pending = s.pending := rfl
@[simp] theorem loadCommit_resets : (s.loadCommit).resets = s.resets := rfl
@[simp] theorem loadCommit_scrDraws : (s.loadCommit).scrDraws = s.scrDraws := rfl
@[simp] theorem loadCommit_eqDraws : (s.loadCommit).eqDraws = s.eqDraws := rfl
@[simp] theorem loadCommit_env : (s.loadCommit).env = s.env := rfl
@[simp] theorem loadCommit_polls : (s.loadCommit).polls = s.polls := rfl
@[simp] theorem loadCommit_lastRead : (s.loadCommit).lastRead = s.lastRead := rfl

/-! ### `saveCommit` -/

@[simp] theorem saveCommit_params : (s.saveCommit).params = s.params := rfl
@[simp] theorem saveCommit_cmd : (s.saveCommit).cmd = s.cmd := rfl
@[simp] theorem saveCommit_code : (s.saveCommit).code = s.code := rfl
@[simp] theorem saveCommit_busy : (s.saveCommit).busy = s.busy := rfl
@[simp] theorem saveCommit_img : (s.saveCommit).img = s.img := rfl
@[simp] theorem saveCommit_arg0 : (s.saveCommit).arg0 = s.arg0 := rfl
@[simp] theorem saveCommit_arg1 : (s.saveCommit).arg1 = s.arg1 := rfl
@[simp] theorem saveCommit_arg2 : (s.saveCommit).arg2 = s.arg2 := rfl
@[simp] theorem saveCommit_flen : (s.saveCommit).flen = BitVec.ofNat 32 s.saveFileSize := rfl
@[simp] theorem saveCommit_imgW : (s.saveCommit).imgW = s.imgW := rfl
@[simp] theorem saveCommit_imgH : (s.saveCommit).imgH = s.imgH := rfl
@[simp] theorem saveCommit_imgBpp : (s.saveCommit).imgBpp = s.imgBpp := rfl
@[simp] theorem saveCommit_ksize : (s.saveCommit).ksize = s.ksize := rfl
@[simp] theorem saveCommit_kdiv : (s.saveCommit).kdiv = s.kdiv := rfl
@[simp] theorem saveCommit_fbuf : (s.saveCommit).fbuf = s.saveFbuf := rfl
@[simp] theorem saveCommit_grid : (s.saveCommit).grid = s.grid := rfl
@[simp] theorem saveCommit_pal : (s.saveCommit).pal = s.pal := rfl
@[simp] theorem saveCommit_hblob : (s.saveCommit).hblob = s.hblob := rfl
@[simp] theorem saveCommit_kmem : (s.saveCommit).kmem = s.kmem := rfl
@[simp] theorem saveCommit_pending : (s.saveCommit).pending = s.pending := rfl
@[simp] theorem saveCommit_resets : (s.saveCommit).resets = s.resets := rfl
@[simp] theorem saveCommit_scrDraws : (s.saveCommit).scrDraws = s.scrDraws := rfl
@[simp] theorem saveCommit_eqDraws : (s.saveCommit).eqDraws = s.eqDraws := rfl
@[simp] theorem saveCommit_env : (s.saveCommit).env = s.env := rfl
@[simp] theorem saveCommit_polls : (s.saveCommit).polls = s.polls := rfl
@[simp] theorem saveCommit_lastRead : (s.saveCommit).lastRead = s.lastRead := rfl

/-! ### `allocCommit` -/

@[simp] theorem allocCommit_params : (s.allocCommit).params = s.params := rfl
@[simp] theorem allocCommit_cmd : (s.allocCommit).cmd = s.cmd := rfl
@[simp] theorem allocCommit_code : (s.allocCommit).code = s.code := rfl
@[simp] theorem allocCommit_busy : (s.allocCommit).busy = s.busy := rfl
@[simp] theorem allocCommit_img : (s.allocCommit).img = true := rfl
@[simp] theorem allocCommit_arg0 : (s.allocCommit).arg0 = s.arg0 := rfl
@[simp] theorem allocCommit_arg1 : (s.allocCommit).arg1 = s.arg1 := rfl
@[simp] theorem allocCommit_arg2 : (s.allocCommit).arg2 = s.arg2 := rfl
@[simp] theorem allocCommit_flen : (s.allocCommit).flen = s.flen := rfl
@[simp] theorem allocCommit_imgW : (s.allocCommit).imgW = BitVec.ofInt 32 s.allocWidth := rfl
@[simp] theorem allocCommit_imgH : (s.allocCommit).imgH = BitVec.ofInt 32 s.allocHeight := rfl
@[simp] theorem allocCommit_imgBpp : (s.allocCommit).imgBpp = BitVec.ofNat 32 s.allocDepth := rfl
@[simp] theorem allocCommit_ksize : (s.allocCommit).ksize = s.ksize := rfl
@[simp] theorem allocCommit_kdiv : (s.allocCommit).kdiv = s.kdiv := rfl
@[simp] theorem allocCommit_fbuf : (s.allocCommit).fbuf = s.fbuf := rfl
@[simp] theorem allocCommit_grid : (s.allocCommit).grid = Memory.fill s.grid 0 (s.allocWidth.toNat * s.allocHeight.toNat * channels s.arg2) (fun _ => 0) := rfl
@[simp] theorem allocCommit_pal : (s.allocCommit).pal = Memory.fill s.pal 0 1024 greyRamp := rfl
@[simp] theorem allocCommit_hblob : (s.allocCommit).hblob = Memory.fill s.hblob 0 54 (fun _ => 0) := rfl
@[simp] theorem allocCommit_kmem : (s.allocCommit).kmem = s.kmem := rfl
@[simp] theorem allocCommit_pending : (s.allocCommit).pending = s.pending := rfl
@[simp] theorem allocCommit_resets : (s.allocCommit).resets = s.resets := rfl
@[simp] theorem allocCommit_scrDraws : (s.allocCommit).scrDraws = s.scrDraws := rfl
@[simp] theorem allocCommit_eqDraws : (s.allocCommit).eqDraws = s.eqDraws := rfl
@[simp] theorem allocCommit_env : (s.allocCommit).env = s.env := rfl
@[simp] theorem allocCommit_polls : (s.allocCommit).polls = s.polls := rfl
@[simp] theorem allocCommit_lastRead : (s.allocCommit).lastRead = s.lastRead := rfl

/-! ### `conv` -/

@[simp] theorem conv_params (K : Nat → Nat → Int) (d n : Nat) : (s.conv K d n).params = s.params := rfl
@[simp] theorem conv_cmd (K : Nat → Nat → Int) (d n : Nat) : (s.conv K d n).cmd = s.cmd := rfl
@[simp] theorem conv_code (K : Nat → Nat → Int) (d n : Nat) : (s.conv K d n).code = s.code := rfl
@[simp] theorem conv_busy (K : Nat → Nat → Int) (d n : Nat) : (s.conv K d n).busy = s.busy := rfl
@[simp] theorem conv_img (K : Nat → Nat → Int) (d n : Nat) : (s.conv K d n).img = s.img := rfl
@[simp] theorem conv_arg0 (K : Nat → Nat → Int) (d n : Nat) : (s.conv K d n).arg0 = s.arg0 := rfl
@[simp] theorem conv_arg1 (K : Nat → Nat → Int) (d n : Nat) : (s.conv K d n).arg1 = s.arg1 := rfl
@[simp] theorem conv_arg2 (K : Nat → Nat → Int) (d n : Nat) : (s.conv K d n).arg2 = s.arg2 := rfl
@[simp] theorem conv_flen (K : Nat → Nat → Int) (d n : Nat) : (s.conv K d n).flen = s.flen := rfl
@[simp] theorem conv_imgW (K : Nat → Nat → Int) (d n : Nat) : (s.conv K d n).imgW = s.imgW := rfl
@[simp] theorem conv_imgH (K : Nat → Nat → Int) (d n : Nat) : (s.conv K d n).imgH = s.imgH := rfl
@[simp] theorem conv_imgBpp (K : Nat → Nat → Int) (d n : Nat) : (s.conv K d n).imgBpp = s.imgBpp := rfl
@[simp] theorem conv_ksize (K : Nat → Nat → Int) (d n : Nat) : (s.conv K d n).ksize = s.ksize := rfl
@[simp] theorem conv_kdiv (K : Nat → Nat → Int) (d n : Nat) : (s.conv K d n).kdiv = s.kdiv := rfl
@[simp] theorem conv_fbuf (K : Nat → Nat → Int) (d n : Nat) : (s.conv K d n).fbuf = s.fbuf := rfl
@[simp] theorem conv_grid (K : Nat → Nat → Int) (d n : Nat) : (s.conv K d n).grid = Memory.fill s.grid 0 s.imageArea (s.convByte K d n) := rfl
@[simp] theorem conv_pal (K : Nat → Nat → Int) (d n : Nat) : (s.conv K d n).pal = s.pal := rfl
@[simp] theorem conv_hblob (K : Nat → Nat → Int) (d n : Nat) : (s.conv K d n).hblob = s.hblob := rfl
@[simp] theorem conv_kmem (K : Nat → Nat → Int) (d n : Nat) : (s.conv K d n).kmem = s.kmem := rfl
@[simp] theorem conv_pending (K : Nat → Nat → Int) (d n : Nat) : (s.conv K d n).pending = s.pending := rfl
@[simp] theorem conv_resets (K : Nat → Nat → Int) (d n : Nat) : (s.conv K d n).resets = s.resets := rfl
@[simp] theorem conv_scrDraws (K : Nat → Nat → Int) (d n : Nat) : (s.conv K d n).scrDraws = s.scrDraws + 1 := rfl
@[simp] theorem conv_eqDraws (K : Nat → Nat → Int) (d n : Nat) : (s.conv K d n).eqDraws = s.eqDraws := rfl
@[simp] theorem conv_env (K : Nat → Nat → Int) (d n : Nat) : (s.conv K d n).env = s.env := rfl
@[simp] theorem conv_polls (K : Nat → Nat → Int) (d n : Nat) : (s.conv K d n).polls = s.polls := rfl
@[simp] theorem conv_lastRead (K : Nat → Nat → Int) (d n : Nat) : (s.conv K d n).lastRead = s.lastRead := rfl

/-! ### `equalizeGrey` -/

@[simp] theorem equalizeGrey_params : (s.equalizeGrey).params = s.params := rfl
@[simp] theorem equalizeGrey_cmd : (s.equalizeGrey).cmd = s.cmd := rfl
@[simp] theorem equalizeGrey_code : (s.equalizeGrey).code = s.code := rfl
@[simp] theorem equalizeGrey_busy : (s.equalizeGrey).busy = s.busy := rfl
@[simp] theorem equalizeGrey_img : (s.equalizeGrey).img = s.img := rfl
@[simp] theorem equalizeGrey_arg0 : (s.equalizeGrey).arg0 = s.arg0 := rfl
@[simp] theorem equalizeGrey_arg1 : (s.equalizeGrey).arg1 = s.arg1 := rfl
@[simp] theorem equalizeGrey_arg2 : (s.equalizeGrey).arg2 = s.arg2 := rfl
@[simp] theorem equalizeGrey_flen : (s.equalizeGrey).flen = s.flen := rfl
@[simp] theorem equalizeGrey_imgW : (s.equalizeGrey).imgW = s.imgW := rfl
@[simp] theorem equalizeGrey_imgH : (s.equalizeGrey).imgH = s.imgH := rfl
@[simp] theorem equalizeGrey_imgBpp : (s.equalizeGrey).imgBpp = s.imgBpp := rfl
@[simp] theorem equalizeGrey_ksize : (s.equalizeGrey).ksize = s.ksize := rfl
@[simp] theorem equalizeGrey_kdiv : (s.equalizeGrey).kdiv = s.kdiv := rfl
@[simp] theorem equalizeGrey_fbuf : (s.equalizeGrey).fbuf = s.fbuf := rfl
@[simp] theorem equalizeGrey_pal : (s.equalizeGrey).pal = s.pal := rfl
@[simp] theorem equalizeGrey_hblob : (s.equalizeGrey).hblob = s.hblob := rfl
@[simp] theorem equalizeGrey_kmem : (s.equalizeGrey).kmem = s.kmem := rfl
@[simp] theorem equalizeGrey_pending : (s.equalizeGrey).pending = s.pending := rfl
@[simp] theorem equalizeGrey_resets : (s.equalizeGrey).resets = s.resets := rfl
@[simp] theorem equalizeGrey_scrDraws : (s.equalizeGrey).scrDraws = s.scrDraws := rfl
@[simp] theorem equalizeGrey_eqDraws : (s.equalizeGrey).eqDraws = s.eqDraws := rfl
@[simp] theorem equalizeGrey_env : (s.equalizeGrey).env = s.env := rfl
@[simp] theorem equalizeGrey_polls : (s.equalizeGrey).polls = s.polls := rfl
@[simp] theorem equalizeGrey_lastRead : (s.equalizeGrey).lastRead = s.lastRead := rfl

/-! ### `equalizeColour` -/

@[simp] theorem equalizeColour_params : (s.equalizeColour).params = s.params := rfl
@[simp] theorem equalizeColour_cmd : (s.equalizeColour).cmd = s.cmd := rfl
@[simp] theorem equalizeColour_code : (s.equalizeColour).code = s.code := rfl
@[simp] theorem equalizeColour_busy : (s.equalizeColour).busy = s.busy := rfl
@[simp] theorem equalizeColour_img : (s.equalizeColour).img = s.img := rfl
@[simp] theorem equalizeColour_arg0 : (s.equalizeColour).arg0 = s.arg0 := rfl
@[simp] theorem equalizeColour_arg1 : (s.equalizeColour).arg1 = s.arg1 := rfl
@[simp] theorem equalizeColour_arg2 : (s.equalizeColour).arg2 = s.arg2 := rfl
@[simp] theorem equalizeColour_flen : (s.equalizeColour).flen = s.flen := rfl
@[simp] theorem equalizeColour_imgW : (s.equalizeColour).imgW = s.imgW := rfl
@[simp] theorem equalizeColour_imgH : (s.equalizeColour).imgH = s.imgH := rfl
@[simp] theorem equalizeColour_imgBpp : (s.equalizeColour).imgBpp = s.imgBpp := rfl
@[simp] theorem equalizeColour_ksize : (s.equalizeColour).ksize = s.ksize := rfl
@[simp] theorem equalizeColour_kdiv : (s.equalizeColour).kdiv = s.kdiv := rfl
@[simp] theorem equalizeColour_fbuf : (s.equalizeColour).fbuf = s.fbuf := rfl
@[simp] theorem equalizeColour_pal : (s.equalizeColour).pal = s.pal := rfl
@[simp] theorem equalizeColour_hblob : (s.equalizeColour).hblob = s.hblob := rfl
@[simp] theorem equalizeColour_kmem : (s.equalizeColour).kmem = s.kmem := rfl
@[simp] theorem equalizeColour_pending : (s.equalizeColour).pending = s.pending := rfl
@[simp] theorem equalizeColour_resets : (s.equalizeColour).resets = s.resets := rfl
@[simp] theorem equalizeColour_scrDraws : (s.equalizeColour).scrDraws = s.scrDraws := rfl
@[simp] theorem equalizeColour_eqDraws : (s.equalizeColour).eqDraws = s.eqDraws := rfl
@[simp] theorem equalizeColour_env : (s.equalizeColour).env = s.env := rfl
@[simp] theorem equalizeColour_polls : (s.equalizeColour).polls = s.polls := rfl
@[simp] theorem equalizeColour_lastRead : (s.equalizeColour).lastRead = s.lastRead := rfl

/-! ### `equalizeCommit` -/

@[simp] theorem equalizeCommit_params : (s.equalizeCommit).params = s.params := by unfold equalizeCommit; split <;> rfl
@[simp] theorem equalizeCommit_cmd : (s.equalizeCommit).cmd = s.cmd := by unfold equalizeCommit; split <;> rfl
@[simp] theorem equalizeCommit_code : (s.equalizeCommit).code = s.code := by unfold equalizeCommit; split <;> rfl
@[simp] theorem equalizeCommit_busy : (s.equalizeCommit).busy = s.busy := by unfold equalizeCommit; split <;> rfl
@[simp] theorem equalizeCommit_img : (s.equalizeCommit).img = s.img := by unfold equalizeCommit; split <;> rfl
@[simp] theorem equalizeCommit_arg0 : (s.equalizeCommit).arg0 = s.arg0 := by unfold equalizeCommit; split <;> rfl
@[simp] theorem equalizeCommit_arg1 : (s.equalizeCommit).arg1 = s.arg1 := by unfold equalizeCommit; split <;> rfl
@[simp] theorem equalizeCommit_arg2 : (s.equalizeCommit).arg2 = s.arg2 := by unfold equalizeCommit; split <;> rfl
@[simp] theorem equalizeCommit_flen : (s.equalizeCommit).flen = s.flen := by unfold equalizeCommit; split <;> rfl
@[simp] theorem equalizeCommit_imgW : (s.equalizeCommit).imgW = s.imgW := by unfold equalizeCommit; split <;> rfl
@[simp] theorem equalizeCommit_imgH : (s.equalizeCommit).imgH = s.imgH := by unfold equalizeCommit; split <;> rfl
@[simp] theorem equalizeCommit_imgBpp : (s.equalizeCommit).imgBpp = s.imgBpp := by unfold equalizeCommit; split <;> rfl
@[simp] theorem equalizeCommit_ksize : (s.equalizeCommit).ksize = s.ksize := by unfold equalizeCommit; split <;> rfl
@[simp] theorem equalizeCommit_kdiv : (s.equalizeCommit).kdiv = s.kdiv := by unfold equalizeCommit; split <;> rfl
@[simp] theorem equalizeCommit_fbuf : (s.equalizeCommit).fbuf = s.fbuf := by unfold equalizeCommit; split <;> rfl
@[simp] theorem equalizeCommit_pal : (s.equalizeCommit).pal = s.pal := by unfold equalizeCommit; split <;> rfl
@[simp] theorem equalizeCommit_hblob : (s.equalizeCommit).hblob = s.hblob := by unfold equalizeCommit; split <;> rfl
@[simp] theorem equalizeCommit_kmem : (s.equalizeCommit).kmem = s.kmem := by unfold equalizeCommit; split <;> rfl
@[simp] theorem equalizeCommit_pending : (s.equalizeCommit).pending = s.pending := by unfold equalizeCommit; split <;> rfl
@[simp] theorem equalizeCommit_resets : (s.equalizeCommit).resets = s.resets := by unfold equalizeCommit; split <;> rfl
@[simp] theorem equalizeCommit_scrDraws : (s.equalizeCommit).scrDraws = s.scrDraws := by unfold equalizeCommit; split <;> rfl
@[simp] theorem equalizeCommit_env : (s.equalizeCommit).env = s.env := by unfold equalizeCommit; split <;> rfl
@[simp] theorem equalizeCommit_polls : (s.equalizeCommit).polls = s.polls := by unfold equalizeCommit; split <;> rfl
@[simp] theorem equalizeCommit_lastRead : (s.equalizeCommit).lastRead = s.lastRead := by unfold equalizeCommit; split <;> rfl

@[simp] theorem equalizeCommit_eqDraws : s.equalizeCommit.eqDraws = s.eqDraws + 1 := rfl

theorem equalizeCommit_grid :
    s.equalizeCommit.grid = if s.imgBpp = 8 then s.equalizeGrey.grid else s.equalizeColour.grid := by
  unfold equalizeCommit; split <;> rfl

/-! ### `resetEvent` -/

@[simp] theorem resetEvent_params : (s.resetEvent).params = s.params := rfl
@[simp] theorem resetEvent_cmd : (s.resetEvent).cmd = 0 := rfl
@[simp] theorem resetEvent_code : (s.resetEvent).code = .ok := rfl
@[simp] theorem resetEvent_busy : (s.resetEvent).busy = false := rfl
@[simp] theorem resetEvent_img : (s.resetEvent).img = false := rfl
@[simp] theorem resetEvent_arg0 : (s.resetEvent).arg0 = 0 := rfl
@[simp] theorem resetEvent_arg1 : (s.resetEvent).arg1 = 0 := rfl
@[simp] theorem resetEvent_arg2 : (s.resetEvent).arg2 = 0 := rfl
@[simp] theorem resetEvent_flen : (s.resetEvent).flen = 0 := rfl
@[simp] theorem resetEvent_imgW : (s.resetEvent).imgW = 0 := rfl
@[simp] theorem resetEvent_imgH : (s.resetEvent).imgH = 0 := rfl
@[simp] theorem resetEvent_imgBpp : (s.resetEvent).imgBpp = 0 := rfl
@[simp] theorem resetEvent_ksize : (s.resetEvent).ksize = 0 := rfl
@[simp] theorem resetEvent_kdiv : (s.resetEvent).kdiv = 0 := rfl
@[simp] theorem resetEvent_fbuf : (s.resetEvent).fbuf = [] := rfl
@[simp] theorem resetEvent_grid : (s.resetEvent).grid = [] := rfl
@[simp] theorem resetEvent_pal : (s.resetEvent).pal = [] := rfl
@[simp] theorem resetEvent_hblob : (s.resetEvent).hblob = [] := rfl
@[simp] theorem resetEvent_kmem : (s.resetEvent).kmem = [] := rfl
@[simp] theorem resetEvent_pending : (s.resetEvent).pending = none := rfl
@[simp] theorem resetEvent_resets : (s.resetEvent).resets = s.resets + 1 := rfl
@[simp] theorem resetEvent_scrDraws : (s.resetEvent).scrDraws = s.scrDraws + 1 := rfl
@[simp] theorem resetEvent_eqDraws : (s.resetEvent).eqDraws = s.eqDraws + 1 := rfl
@[simp] theorem resetEvent_env : (s.resetEvent).env = s.env := rfl
@[simp] theorem resetEvent_polls : (s.resetEvent).polls = s.polls := rfl
@[simp] theorem resetEvent_lastRead : (s.resetEvent).lastRead = s.lastRead := rfl

end Sys2Proof.Machine.State
end

