-- ==== Sys2Proof/Laws/Ops.lean ====
section
/-! SUPPORT. What each shared operation does, said once: what a byte reads as after each named update, the little-endian
primitives, the clamped byte, and the outcome of each command as one equation. -/

namespace Sys2Proof.Machine

namespace State

variable (s : State)

/-! ### What a unit reads as after `finish` -/

@[simp] theorem finish_fbufByte (c : StatusCode) (a : Nat) : (s.finish c).fbufByte a = s.fbufByte a := rfl
@[simp] theorem finish_gridByte (c : StatusCode) (a : Nat) : (s.finish c).gridByte a = s.gridByte a := rfl
@[simp] theorem finish_palByte (c : StatusCode) (a : Nat) : (s.finish c).palByte a = s.palByte a := rfl
@[simp] theorem finish_hblobByte (c : StatusCode) (a : Nat) : (s.finish c).hblobByte a = s.hblobByte a := rfl
@[simp] theorem finish_kmemWord (c : StatusCode) (a : Nat) : (s.finish c).kmemWord a = s.kmemWord a := rfl
@[simp] theorem finish_width (c : StatusCode) : (s.finish c).width = s.width := rfl
@[simp] theorem finish_height (c : StatusCode) : (s.finish c).height = s.height := rfl
@[simp] theorem finish_pixels (c : StatusCode) : (s.finish c).pixels = s.pixels := rfl
@[simp] theorem finish_imageArea (c : StatusCode) : (s.finish c).imageArea = s.imageArea := rfl
@[simp] theorem finish_pixel (c : StatusCode) (y x ch : Nat) : (s.finish c).pixel y x ch = s.pixel y x ch := rfl

/-- Two states with the same FBUF and the same draw read the same FBUF byte. -/
theorem fbufByte_congr {s t : State} (h : t.fbuf = s.fbuf) (hr : t.resets = s.resets) (a : Nat) :
    t.fbufByte a = s.fbufByte a := by rw [fbufByte, fbufByte, h, hr]

/-- Two states with the same GRIDMEM and the same draw read the same GRIDMEM byte. -/
theorem gridByte_congr {s t : State} (h : t.grid = s.grid) (hr : t.resets = s.resets) (a : Nat) :
    t.gridByte a = s.gridByte a := by rw [gridByte, gridByte, h, hr]

/-! ### What a byte reads as after a fill -/

/-- A byte of a filled memory: the new byte inside the block, what it read as before outside. -/
theorem getD_lookup_fill {w : Nat} (m : Memory w) (lo n : Nat) (f draw : Nat → BitVec w) (a : Nat) :
    (Memory.lookup (Memory.fill m lo n f) a).getD (draw a) =
      if lo ≤ a ∧ a < lo + n then f (a - lo) else (Memory.lookup m a).getD (draw a) := by
  rw [Memory.lookup_fill]
  split <;> rfl

/-- `getD_lookup_fill` for a block that begins at address 0. -/
theorem getD_lookup_fill_zero {w : Nat} (m : Memory w) (n : Nat) (f draw : Nat → BitVec w) (a : Nat) :
    (Memory.lookup (Memory.fill m 0 n f) a).getD (draw a) =
      if a < n then f a else (Memory.lookup m a).getD (draw a) := by
  rw [getD_lookup_fill]
  simp

@[simp] theorem setGrid_gridByte (n : Nat) (f : Nat → Byte) (a : Nat) :
    (s.setGrid n f).gridByte a = if a < n then f a else s.gridByte a :=
  getD_lookup_fill_zero s.grid n f (Config.gridDraw s.resets) a

@[simp] theorem setGrid_fbufByte (n : Nat) (f : Nat → Byte) (a : Nat) : (s.setGrid n f).fbufByte a = s.fbufByte a := rfl
@[simp] theorem setGrid_palByte (n : Nat) (f : Nat → Byte) (a : Nat) : (s.setGrid n f).palByte a = s.palByte a := rfl
@[simp] theorem setGrid_hblobByte (n : Nat) (f : Nat → Byte) (a : Nat) : (s.setGrid n f).hblobByte a = s.hblobByte a := rfl
@[simp] theorem setGrid_kmemWord (n : Nat) (f : Nat → Byte) (a : Nat) : (s.setGrid n f).kmemWord a = s.kmemWord a := rfl
@[simp] theorem setGrid_imageArea (n : Nat) (f : Nat → Byte) : (s.setGrid n f).imageArea = s.imageArea := rfl

@[simp] theorem conv_gridByte (K : Nat → Nat → Int) (d n a : Nat) :
    (s.conv K d n).gridByte a = if a < s.imageArea then s.convByte K d n a else s.gridByte a :=
  getD_lookup_fill_zero s.grid _ _ (Config.gridDraw s.resets) a

@[simp] theorem conv_fbufByte (K : Nat → Nat → Int) (d n a : Nat) : (s.conv K d n).fbufByte a = s.fbufByte a := rfl
@[simp] theorem conv_palByte (K : Nat → Nat → Int) (d n a : Nat) : (s.conv K d n).palByte a = s.palByte a := rfl
@[simp] theorem conv_hblobByte (K : Nat → Nat → Int) (d n a : Nat) : (s.conv K d n).hblobByte a = s.hblobByte a := rfl
@[simp] theorem conv_kmemWord (K : Nat → Nat → Int) (d n a : Nat) : (s.conv K d n).kmemWord a = s.kmemWord a := rfl
@[simp] theorem conv_imageArea (K : Nat → Nat → Int) (d n : Nat) : (s.conv K d n).imageArea = s.imageArea := rfl

@[simp] theorem loadCommit_gridByte (a : Nat) :
    s.loadCommit.gridByte a = if a < s.loadArea then s.loadPixelByte a else s.gridByte a :=
  getD_lookup_fill_zero s.grid _ _ (Config.gridDraw s.resets) a

@[simp] theorem loadCommit_hblobByte (a : Nat) :
    s.loadCommit.hblobByte a = if a < 54 then s.fbufByte a else s.hblobByte a :=
  getD_lookup_fill_zero s.hblob _ _ (Config.hblobDraw s.resets) a

theorem loadCommit_palByte (a : Nat) :
    s.loadCommit.palByte a = if s.fileDepth ≠ 24 ∧ a < 1024 then s.fbufByte (54 + a) else s.palByte a := by
  rw [palByte, loadCommit_pal, loadCommit_resets]
  by_cases h : s.fileDepth = 24
  · simp [h, palByte]
  · rw [if_neg h, getD_lookup_fill_zero s.pal 1024 _ (Config.palDraw s.resets)]
    simp [h, palByte]

@[simp] theorem loadCommit_fbufByte (a : Nat) : s.loadCommit.fbufByte a = s.fbufByte a := rfl
@[simp] theorem loadCommit_kmemWord (a : Nat) : s.loadCommit.kmemWord a = s.kmemWord a := rfl

@[simp] theorem allocCommit_gridByte (a : Nat) :
    s.allocCommit.gridByte a =
      if a < s.allocWidth.toNat * s.allocHeight.toNat * channels s.arg2 then 0 else s.gridByte a :=
  getD_lookup_fill_zero s.grid _ _ (Config.gridDraw s.resets) a

@[simp] theorem allocCommit_hblobByte (a : Nat) : s.allocCommit.hblobByte a = if a < 54 then 0 else s.hblobByte a :=
  getD_lookup_fill_zero s.hblob _ _ (Config.hblobDraw s.resets) a

@[simp] theorem allocCommit_palByte (a : Nat) : s.allocCommit.palByte a = if a < 1024 then greyRamp a else s.palByte a :=
  getD_lookup_fill_zero s.pal _ _ (Config.palDraw s.resets) a

@[simp] theorem allocCommit_fbufByte (a : Nat) : s.allocCommit.fbufByte a = s.fbufByte a := rfl
@[simp] theorem allocCommit_kmemWord (a : Nat) : s.allocCommit.kmemWord a = s.kmemWord a := rfl

@[simp] theorem saveCommit_gridByte (a : Nat) : s.saveCommit.gridByte a = s.gridByte a := rfl
@[simp] theorem saveCommit_palByte (a : Nat) : s.saveCommit.palByte a = s.palByte a := rfl
@[simp] theorem saveCommit_hblobByte (a : Nat) : s.saveCommit.hblobByte a = s.hblobByte a := rfl
@[simp] theorem saveCommit_kmemWord (a : Nat) : s.saveCommit.kmemWord a = s.kmemWord a := rfl

@[simp] theorem equalizeGrey_gridByte (a : Nat) :
    s.equalizeGrey.gridByte a =
      if a < s.pixels then
        BitVec.ofNat 8 ((eqTable s.params.numerics s.greyValues s.pixels).getD (s.gridByte a).toNat 0)
      else s.gridByte a := setGrid_gridByte s _ _ a

@[simp] theorem equalizeColour_gridByte (a : Nat) :
    s.equalizeColour.gridByte a =
      if a < 3 * s.pixels then
        byteOf (rebuiltChannel s.params.numerics
          ((eqTable s.params.numerics s.lumaValues s.pixels).getD (s.lumaOf (a / 3)) 0) (s.gridByte (3 * (a / 3))).toNat
          (s.gridByte (3 * (a / 3) + 1)).toNat (s.gridByte (3 * (a / 3) + 2)).toNat (a % 3))
      else s.gridByte a := setGrid_gridByte s _ _ a

theorem equalizeCommit_gridByte (a : Nat) :
    s.equalizeCommit.gridByte a = if s.imgBpp = 8 then s.equalizeGrey.gridByte a else s.equalizeColour.gridByte a := by
  unfold equalizeCommit
  split <;> rfl

end State

/-! ### Bytes and clamps -/

theorem byteOf_toNat {v : Int} (h0 : 0 ≤ v) (h1 : v ≤ 255) : ((byteOf v).toNat : Int) = v := by
  rw [byteOf, BitVec.toNat_ofNat]
  omega

theorem clamp_bounds (v : Int) : 0 ≤ clamp v 0 255 ∧ clamp v 0 255 ≤ 255 := by
  unfold clamp
  split
  · omega
  · split <;> omega

theorem clamp_eq_clampByte (v : Int) : clamp v 0 255 = clampByte v := by
  unfold clamp clampByte
  split
  · omega
  · split <;> omega

theorem byteOf_clamp_toNat (v : Int) : ((byteOf (clamp v 0 255)).toNat : Int) = clampByte v := by
  rw [byteOf_toNat (clamp_bounds v).1 (clamp_bounds v).2, clamp_eq_clampByte]

/-! ### Little-endian fields -/

theorem wf_memWrite {m : Memory 8} (h : Memory.wf m) (a n v : Nat) : Memory.wf (memWrite m a n v) :=
  Memory.wf_fill h _ _ _

theorem within_memWrite {m : Memory 8} {size a n : Nat} (h : Memory.within m size) (hn : a + n ≤ size) (v : Nat) :
    Memory.within (memWrite m a n v) size := Memory.within_fill h hn _

theorem lookup_memWrite (m : Memory 8) (a n v b : Nat) :
    Memory.lookup (memWrite m a n v) b =
      if a ≤ b ∧ b < a + n then some (BitVec.ofNat 8 (v / 256 ^ (b - a))) else Memory.lookup m b :=
  Memory.lookup_fill m a n _ b

theorem memRead_lt (rd : Nat → Byte) : ∀ (n a : Nat), memRead rd a n < 256 ^ n
  | 0, _ => by simp [memRead]
  | n + 1, a => by
    have h1 := memRead_lt rd n (a + 1)
    have h2 := (rd a).isLt
    rw [memRead, Nat.pow_succ]
    omega

/-- A field depends on its own bytes alone. -/
theorem memRead_congr {rd rd' : Nat → Byte} : ∀ (n a : Nat), (∀ b, a ≤ b → b < a + n → rd b = rd' b) →
    memRead rd a n = memRead rd' a n
  | 0, _, _ => rfl
  | n + 1, a, h => by
    rw [memRead, memRead, h a (by omega) (by omega), memRead_congr n (a + 1) fun b h1 h2 => h b (by omega) (by omega)]

/-- Reading back a little-endian field whose bytes are those of v. -/
theorem memRead_of_bytes {rd : Nat → Byte} : ∀ (n a v : Nat),
    (∀ t, t < n → rd (a + t) = BitVec.ofNat 8 (v / 256 ^ t)) → memRead rd a n = v % 256 ^ n
  | 0, _, v, _ => by simp [memRead, Nat.mod_one]
  | n + 1, a, v, h => by
    have h0 := h 0 (by omega)
    have ih := memRead_of_bytes (rd := rd) n (a + 1) (v / 256) fun t ht => by
      have := h (t + 1) (by omega)
      rw [show a + 1 + t = a + (t + 1) by omega, this, Nat.pow_succ, Nat.div_div_eq_div_mul, Nat.mul_comm]
    rw [memRead, ih, show rd a = rd (a + 0) from rfl, h0, BitVec.toNat_ofNat, Nat.pow_zero, Nat.div_one,
      show 256 ^ (n + 1) = 256 * 256 ^ n by rw [Nat.pow_succ, Nat.mul_comm], Nat.mod_mul]

/-! ### The outcome of each command, as one equation -/

theorem withImage_of_img {s : State} (h : s.img = true) (body : Host.Outcome State Fault Refusal) :
    withImage s body = body := by simp [withImage, h]

theorem withImage_of_no_img {s : State} (h : s.img = false) (body : Host.Outcome State Fault Refusal) :
    withImage s body = .next (s.finish .invalidParameterError) := by simp [withImage, h, raise]

theorem execLoad_eq (s : State) :
    execLoad s = .next (if s.loadStatus = .ok then s.loadCommit.finish .ok else s.finish s.loadStatus) := by
  unfold execLoad complete raise
  split <;> rfl

theorem execSave_eq (s : State) :
    execSave s = .next (if s.img = false then s.finish .invalidParameterError
      else if s.saveFileSize > s.params.fbufBytes.toNat then s.finish .ioError else s.saveCommit.finish .ok) := by
  unfold execSave withImage complete raise zext32
  repeat' split
  all_goals rfl

theorem execAlloc_eq (s : State) :
    execAlloc s = .next (if s.allocStatus = .ok then s.allocCommit.finish .ok else s.finish s.allocStatus) := by
  unfold execAlloc complete raise
  split <;> rfl

theorem execPrintInfo_eq (s : State) :
    execPrintInfo s = .next (s.finish (if s.img = false then .invalidParameterError else .ok)) := by
  unfold execPrintInfo withImage complete raise
  split <;> rfl

theorem execNegative_eq (s : State) :
    execNegative s = .next (if s.img = false then s.finish .invalidParameterError
      else (s.setGrid s.imageArea (fun a => byteOf (255 - (s.gridByte a).toNat))).finish .ok) := by
  unfold execNegative withImage complete raise
  split <;> rfl

theorem execGrayscale_eq (s : State) :
    execGrayscale s = .next (if s.img = false then s.finish .invalidParameterError
      else if s.imgBpp ≠ 24 then s.finish .unsupportedFormatError
      else (s.setGrid (3 * s.pixels) (fun a => byteOf (s.greyOf (a / 3)))).finish .ok) := by
  unfold execGrayscale withImage complete raise
  repeat' split
  all_goals rfl

theorem execBrightness_eq (s : State) :
    execBrightness s = .next (if s.img = false then s.finish .invalidParameterError
      else (s.setGrid s.imageArea (fun a => byteOf (clamp ((s.gridByte a).toNat + s.delta) 0 255))).finish .ok) := by
  unfold execBrightness withImage complete raise
  split <;> rfl

theorem execThreshold_eq (s : State) :
    execThreshold s = .next (if s.img = false then s.finish .invalidParameterError
      else if s.imgBpp ≠ 8 then s.finish .unsupportedFormatError
      else (s.setGrid s.pixels (fun a => if ((s.gridByte a).toNat : Int) ≥ s.cut then 255 else 0)).finish .ok) := by
  unfold execThreshold withImage complete raise
  repeat' split
  all_goals rfl

theorem execConvolve_eq (s : State) :
    execConvolve s = .next (if s.img = false then s.finish .invalidParameterError
      else if s.kernelLegal = false then s.finish .invalidKernelError
      else (s.conv (s.kernelNumerator s.kernelSide.toNat) s.kernelDivisor.toNat s.kernelSide.toNat).finish .ok) := by
  unfold execConvolve withImage complete raise
  repeat' split
  all_goals rfl

theorem preset_eq (rows : List Int) (d : Nat) (s : State) :
    preset rows d s = .next (if s.img = false then s.finish .invalidParameterError
      else (s.conv (matrix3 rows) d 3).finish .ok) := by
  unfold preset withImage complete raise
  split <;> rfl

theorem execEqualize_eq (s : State) :
    execEqualize s = .next (if s.img = false then s.finish .invalidParameterError
      else s.equalizeCommit.finish .ok) := by
  unfold execEqualize withImage complete raise
  split <;> rfl

end Sys2Proof.Machine
end

