-- ==== Sys2Proof/Laws/Binary64.lean ====
section
/-! SUPPORT. The value of a binary64 number as a rational (00_scope.md R13), what the integer rounding inside `ofRatio` does, and
how its parts meet the reference `fl` of Sys2Proof/Safety.lean. -/

/-- Under EXACT nothing is rounded (00_scope.md R12). -/
@[simp] theorem Sys2Proof.Numerics.rnd_exactArith (q : ℚ) : Sys2Proof.Numerics.exactArith.rnd q = q := rfl

/-- Under BINARY64 every result is rounded (00_scope.md R13). -/
@[simp] theorem Sys2Proof.Numerics.rnd_binary64 (q : ℚ) : Sys2Proof.Numerics.binary64.rnd q = Sys2Proof.Machine.fl q := rfl

namespace Sys2Proof.Machine.B64

/-- The denominator is positive. -/
theorem den_pos (x : B64) : 0 < x.den := by unfold B64.den; positivity

/-- The value as numerator over denominator. -/
theorem toRat_eq (x : B64) : x.toRat = (x.num : ℚ) / x.den := by
  unfold B64.toRat B64.num B64.den
  rcases le_total 0 x.exp with h | h
  · have e1 : ((x.exp.toNat : ℕ) : ℤ) = x.exp := Int.toNat_of_nonneg h
    have e2 : (-x.exp).toNat = 0 := by omega
    rw [e2]
    push_cast
    rw [div_one]
    conv_lhs => rw [← e1]
    rw [zpow_natCast]
  · have e1 : (((-x.exp).toNat : ℕ) : ℤ) = -x.exp := Int.toNat_of_nonneg (by omega)
    have e2 : x.exp.toNat = 0 := by omega
    rw [e2]
    push_cast
    rw [mul_one, div_eq_mul_inv]
    congr 1
    rw [← zpow_natCast, e1, zpow_neg, inv_inv]

/-- The scaled ratio is a / (q · 2^e). -/
theorem scaled_eq (a q : ℕ) (hq : 0 < q) (e : ℤ) :
    ((scaledNum a e : ℕ) : ℚ) / (scaledDen q e : ℕ) = (a : ℚ) / q / 2 ^ e := by
  unfold scaledNum scaledDen
  have hq' : (q : ℚ) ≠ 0 := by positivity
  rcases le_total 0 e with h | h
  · have e1 : ((e.toNat : ℕ) : ℤ) = e := Int.toNat_of_nonneg h
    have e2 : (-e).toNat = 0 := by omega
    rw [e2]; push_cast
    rw [mul_one]
    conv_rhs => rw [← e1]
    rw [zpow_natCast, div_div]
  · have e1 : (((-e).toNat : ℕ) : ℤ) = -e := Int.toNat_of_nonneg (by omega)
    have e2 : e.toNat = 0 := by omega
    rw [e2]; push_cast
    rw [mul_one]
    have : (2 : ℚ) ^ e = ((2:ℚ) ^ ((-e).toNat))⁻¹ := by
      rw [← zpow_natCast, e1, zpow_neg, inv_inv]
    rw [this, div_inv_eq_mul]; ring

/-- The scaled denominator is positive. -/
theorem scaledDen_pos (q : ℕ) (hq : 0 < q) (e) : 0 < scaledDen q e := by unfold scaledDen; positivity

/-- `roundHalfEven a d` is a nearest integer of a / d, and even on a tie. -/
theorem roundHalfEven_spec (a d : ℕ) (hd : 0 < d) :
    |(a : ℚ) / d - roundHalfEven a d| ≤ 1 / 2 ∧
      (|(a : ℚ) / d - roundHalfEven a d| = 1 / 2 → roundHalfEven a d % 2 = 0) := by
  have hd' : (0 : ℚ) < d := by exact_mod_cast hd
  have hdm := Nat.div_add_mod a d
  have hlt := Nat.mod_lt a hd
  have e : (a : ℚ) / d = (a / d : ℕ) + ((a % d : ℕ) : ℚ) / d := by
    rw [eq_comm, ← sub_eq_zero]; field_simp
    have : ((d * (a / d) + a % d : ℕ) : ℚ) = a := by rw [hdm]
    push_cast at this ⊢
    linarith
  have h0 : (0 : ℚ) ≤ ((a % d : ℕ) : ℚ) / d := by positivity
  unfold roundHalfEven
  simp only
  split
  · rename_i h
    have h' : 2 * ((a % d : ℕ) : ℚ) < d := by exact_mod_cast h
    have h2 : ((a % d : ℕ) : ℚ) / d < 1 / 2 := by rw [div_lt_iff₀ hd']; linarith
    rw [e, add_sub_cancel_left, abs_of_nonneg h0]
    exact ⟨h2.le, fun h => absurd h (ne_of_lt h2)⟩
  · split
    · rename_i h
      have h' : (d : ℚ) < 2 * ((a % d : ℕ) : ℚ) := by exact_mod_cast h
      have h1' : ((a % d : ℕ) : ℚ) < d := by exact_mod_cast hlt
      have h2 : 1 / 2 < ((a % d : ℕ) : ℚ) / d := by rw [lt_div_iff₀ hd']; linarith
      have h3 : ((a % d : ℕ) : ℚ) / d < 1 := by rw [div_lt_one hd']; exact h1'
      have : (a : ℚ) / d - ((a / d + 1 : ℕ) : ℚ) = ((a % d : ℕ) : ℚ) / d - 1 := by rw [e]; push_cast; ring
      rw [this, abs_of_neg (by linarith)]
      exact ⟨by linarith, fun h => by linarith⟩
    · rename_i h1 h2
      have h3 : 2 * (a % d) = d := by omega
      have h3' : 2 * ((a % d : ℕ) : ℚ) = d := by exact_mod_cast h3
      have h4 : ((a % d : ℕ) : ℚ) / d = 1 / 2 := by rw [div_eq_iff hd'.ne']; linarith
      split
      · rename_i hp
        rw [e, h4, add_sub_cancel_left]
        exact ⟨by norm_num, fun _ => hp⟩
      · rename_i hp
        have : (a : ℚ) / d - ((a / d + 1 : ℕ) : ℚ) = - (1 / 2) := by rw [e, h4]; push_cast; ring
        rw [this]
        exact ⟨by norm_num, fun _ => by omega⟩

/-- The exponent puts the mantissa in [2^52, 2^53). -/
theorem exponent_bounds (a q : ℕ) (ha : 0 < a) (hq : 0 < q) :
    (2 : ℚ) ^ 52 ≤ (a : ℚ) / q / 2 ^ exponentFor a q ∧ (a : ℚ) / q / 2 ^ exponentFor a q < 2 ^ 53 := by
  have hq' : (0 : ℚ) < q := by exact_mod_cast hq
  have a1 : 2 ^ a.log2 ≤ a := Nat.log2_self_le (by omega)
  have a2 : a < 2 ^ (a.log2 + 1) := Nat.lt_log2_self
  have q1 : 2 ^ q.log2 ≤ q := Nat.log2_self_le (by omega)
  have q2 : q < 2 ^ (q.log2 + 1) := Nat.lt_log2_self
  have a1' : (2 : ℚ) ^ a.log2 ≤ a := by exact_mod_cast a1
  have a2' : (a : ℚ) < 2 ^ (a.log2 + 1) := by exact_mod_cast a2
  have q1' : (2 : ℚ) ^ q.log2 ≤ q := by exact_mod_cast q1
  have q2' : (q : ℚ) < 2 ^ (q.log2 + 1) := by exact_mod_cast q2
  obtain ⟨e, he⟩ : ∃ e : ℤ, e = (a.log2 : ℤ) - q.log2 - 52 := ⟨_, rfl⟩
  have hp : (0 : ℚ) < 2 ^ e := by positivity
  have key : (2 : ℚ) ^ e * 2 ^ q.log2 * 2 ^ 52 = 2 ^ a.log2 := by
    have h1 : (2:ℚ) ^ q.log2 = (2:ℚ) ^ (q.log2 : ℤ) := by simp
    have h2 : (2:ℚ) ^ a.log2 = (2:ℚ) ^ (a.log2 : ℤ) := by simp
    have h3 : (2:ℚ) ^ 52 = (2:ℚ) ^ (52 : ℤ) := by norm_num
    rw [h1, h2, h3, ← zpow_add₀ (by norm_num), ← zpow_add₀ (by norm_num), he]; congr 1; ring
  have hql : (0 : ℚ) < 2 ^ q.log2 := by positivity
  -- lower : 2^51 < a/q/2^e ; upper : a/q/2^e < 2^53
  have lo : (2 : ℚ) ^ 51 < (a : ℚ) / q / 2 ^ e := by
    rw [lt_div_iff₀ hp, lt_div_iff₀ hq']
    rw [pow_succ] at q2'
    calc (2:ℚ) ^ 51 * 2 ^ e * q < (2:ℚ) ^ 51 * 2 ^ e * (2 ^ q.log2 * 2) := by
          apply mul_lt_mul_of_pos_left q2' (by positivity)
      _ = 2 ^ e * 2 ^ q.log2 * 2 ^ 52 := by ring
      _ = 2 ^ a.log2 := key
      _ ≤ a := a1'
  have hi : (a : ℚ) / q / 2 ^ e < 2 ^ 53 := by
    rw [div_lt_iff₀ hp, div_lt_iff₀ hq']
    rw [pow_succ] at a2'
    calc (a : ℚ) < 2 ^ a.log2 * 2 := a2'
      _ = 2 ^ 53 * 2 ^ e * 2 ^ q.log2 := by rw [← key]; ring
      _ ≤ 2 ^ 53 * 2 ^ e * q := by apply mul_le_mul_of_nonneg_left q1' (by positivity)
  have hx : exponentFor a q = if scaledNum a e / scaledDen q e < 2 ^ 52 then e - 1 else e := by
    unfold exponentFor; rw [← he]
  have hs := scaled_eq a q hq e
  have hdp := scaledDen_pos q hq e
  have hdp' : (0 : ℚ) < (scaledDen q e : ℕ) := by exact_mod_cast hdp
  rw [hx]
  split
  · rename_i h
    rw [Nat.div_lt_iff_lt_mul hdp] at h
    have h' : ((scaledNum a e : ℕ) : ℚ) < 2 ^ 52 * (scaledDen q e : ℕ) := by exact_mod_cast h
    have h2 : (a : ℚ) / q / 2 ^ e < 2 ^ 52 := by rw [← hs, div_lt_iff₀ hdp']; exact h'
    have e2 : (a : ℚ) / q / 2 ^ (e - 1) = (a : ℚ) / q / 2 ^ e * 2 := by
      rw [zpow_sub₀ (by norm_num)]; field_simp
    rw [e2]
    constructor <;> nlinarith
  · rename_i h
    rw [not_lt, Nat.le_div_iff_mul_le hdp] at h
    have h' : 2 ^ 52 * (scaledDen q e : ℚ) ≤ ((scaledNum a e : ℕ) : ℚ) := by exact_mod_cast h
    have h2 : 2 ^ 52 ≤ (a : ℚ) / q / 2 ^ e := by rw [← hs, le_div_iff₀ hdp']; exact h'
    exact ⟨h2, hi⟩

/-- An integer converts exactly. -/
theorem toRat_ofInt (n : ℤ) : (B64.ofInt n).toRat = n := by simp [B64.toRat, B64.ofInt]

/-- The ratio a sum rounds is the exact sum. -/
theorem add_ratio (x y : B64) :
    ((x.num * y.den + y.num * x.den : ℤ) : ℚ) / ((x.den * y.den : ℕ) : ℚ) = x.toRat + y.toRat := by
  have h1 : (x.den : ℚ) ≠ 0 := by exact_mod_cast (den_pos x).ne'
  have h2 : (y.den : ℚ) ≠ 0 := by exact_mod_cast (den_pos y).ne'
  rw [toRat_eq, toRat_eq]; push_cast; field_simp

/-- The ratio a difference rounds is the exact difference. -/
theorem sub_ratio (x y : B64) :
    ((x.num * y.den - y.num * x.den : ℤ) : ℚ) / ((x.den * y.den : ℕ) : ℚ) = x.toRat - y.toRat := by
  have h1 : (x.den : ℚ) ≠ 0 := by exact_mod_cast (den_pos x).ne'
  have h2 : (y.den : ℚ) ≠ 0 := by exact_mod_cast (den_pos y).ne'
  rw [toRat_eq, toRat_eq]; push_cast; field_simp

/-- The ratio a product rounds is the exact product. -/
theorem mul_ratio (x y : B64) : ((x.num * y.num : ℤ) : ℚ) / ((x.den * y.den : ℕ) : ℚ) = x.toRat * y.toRat := by
  have h1 : (x.den : ℚ) ≠ 0 := by exact_mod_cast (den_pos x).ne'
  have h2 : (y.den : ℚ) ≠ 0 := by exact_mod_cast (den_pos y).ne'
  rw [toRat_eq, toRat_eq]; push_cast; field_simp

/-! ### The parts of `fl` -/

/-- A nearest integer that is even on a tie is `roundEven`. -/
theorem roundEven_unique {q : ℚ} {n : ℤ} (h : |q - n| ≤ 1 / 2) (ht : |q - n| = 1 / 2 → n % 2 = 0) : roundEven q = n := by
  obtain ⟨h1, h2⟩ := abs_le.1 h
  have f1 := Int.floor_le q
  have f2 := Int.lt_floor_add_one q
  have a1 : n - 1 ≤ ⌊q⌋ := Int.le_floor.2 (by push_cast; linarith)
  have a2 : ⌊q⌋ ≤ n := by
    have : ⌊q⌋ < n + 1 := Int.floor_lt.2 (by push_cast; linarith)
    omega
  unfold roundEven
  obtain e | e : n = ⌊q⌋ ∨ n = ⌊q⌋ + 1 := by omega
  · rw [← e] at f1 ⊢
    have a : |q - n| = q - n := abs_of_nonneg (by linarith)
    split
    · rfl
    · rw [if_neg (by linarith), if_pos (ht (by linarith))]
  · have e' : (⌊q⌋ : ℚ) = n - 1 := by rw [e]; push_cast; ring
    have a : |q - n| = -(q - n) := abs_of_nonpos (by linarith)
    rw [if_neg (by linarith)]
    split
    · exact e.symm
    · have := ht (by linarith)
      rw [if_neg (by omega)]; exact e.symm

/-- `roundEven` treats both signs alike. -/
theorem roundEven_neg (q : ℚ) : roundEven (-q) = -roundEven q := by
  have f1 := Int.floor_le q
  have f2 := Int.lt_floor_add_one q
  apply roundEven_unique
  all_goals
    push_cast
    rw [show -q - -(roundEven q : ℚ) = -(q - roundEven q) by ring, abs_neg]
    unfold roundEven
    split_ifs <;> push_cast
  · rw [abs_le]; constructor <;> linarith
  · rw [abs_le]; constructor <;> linarith
  · rw [abs_le]; constructor <;> linarith
  · rw [abs_le]; constructor <;> linarith
  · intro h; rw [abs_of_nonneg (by linarith)] at h; linarith
  · intro h; rw [abs_of_neg (by linarith)] at h; linarith
  · intro _; omega
  · intro _; omega

/-- The integer rounding inside `ofRatio` is `roundEven`. -/
theorem roundHalfEven_eq_roundEven (a d : ℕ) (hd : 0 < d) : (roundHalfEven a d : ℤ) = roundEven ((a : ℚ) / d) := by
  obtain ⟨h1, h2⟩ := roundHalfEven_spec a d hd
  exact (roundEven_unique (by push_cast; exact h1) (by push_cast; intro h; have := h2 h; omega)).symm

/-- The exponent inside `ofRatio` is that of `ulp`. -/
theorem exponentFor_eq_log (a q : ℕ) (ha : 0 < a) (hq : 0 < q) : exponentFor a q = Int.log 2 ((a : ℚ) / q) - 52 := by
  obtain ⟨lo, hi⟩ := exponent_bounds a q ha hq
  generalize exponentFor a q = e at *
  have hp : (0 : ℚ) < 2 ^ e := by positivity
  have hx : (0 : ℚ) < (a : ℚ) / q := by positivity
  rw [le_div_iff₀ hp, ← zpow_natCast, ← zpow_add₀ (by norm_num)] at lo
  rw [div_lt_iff₀ hp, ← zpow_natCast, ← zpow_add₀ (by norm_num)] at hi
  have h1 : ((52 : ℕ) : ℤ) + e ≤ Int.log 2 ((a : ℚ) / q) := (Int.zpow_le_iff_le_log (by norm_num) hx).1 (by simpa using lo)
  have h2 : Int.log 2 ((a : ℚ) / q) < ((53 : ℕ) : ℤ) + e := (Int.lt_zpow_iff_log_lt (by norm_num) hx).1 (by simpa using hi)
  push_cast at h1 h2
  omega

end Sys2Proof.Machine.B64
end

