-- ==== Sys2Proof/Laws/Codec.lean ====
section
/-! SUPPORT. What LOAD's and ALLOC's checks and commits say in one place (40_codec.md R111, R133), and what every byte of the
file SAVE writes holds (40_codec.md R126). -/

namespace Sys2Proof.Machine

/-! ### Image areas -/

/-- A 24-bit pixel has three bytes (20_memory.md R54). -/
theorem imageArea_of_24 {s : State} (h : s.imgBpp = 24) : s.imageArea = 3 * s.pixels := by
  unfold State.imageArea; rw [h]; show s.pixels * 3 = _; omega

/-- An 8-bit pixel has one byte (20_memory.md R54). -/
theorem imageArea_of_8 {s : State} (h : s.imgBpp = 8) : s.imageArea = s.pixels := by
  unfold State.imageArea; rw [h]; show s.pixels * 1 = _; omega

/-- Any other depth counts as three bytes (40_codec.md R110). -/
theorem imageArea_of_ne_8 {s : State} (h : s.imgBpp ≠ 8) : s.imageArea = 3 * s.pixels := by
  unfold State.imageArea channels; rw [if_neg h]; omega

/-- The image area of an image fits GRIDMEM (10_state.md R33). -/
theorem imageArea_le {s : State} (h : s.ImageInv) (hi : s.img = true) :
    s.imageArea ≤ 3 * s.params.gridPx.toNat ∧ 3 * s.pixels ≤ 3 * s.params.gridPx.toNat := by
  rcases h with h' | ⟨-, -, -, h1, h2⟩
  · simp [hi] at h'
  · unfold State.imageArea channels State.pixels
    split <;> omega

/-- Reading back a linear index of a grid of width w with c bytes in a pixel (20_memory.md R54). -/
theorem linearIndex_divMod (c w x y ch : ℕ) (hx : x < w) (hc : ch < c) :
    (c * (y * w + x) + ch) / c / w = y ∧ (c * (y * w + x) + ch) / c % w = x ∧ (c * (y * w + x) + ch) % c = ch := by
  have h1 : (c * (y * w + x) + ch) / c = y * w + x := by
    rw [Nat.mul_add_div (by omega), Nat.div_eq_of_lt hc]; omega
  rw [h1]
  refine ⟨?_, ?_, ?_⟩
  · rw [Nat.mul_comm, Nat.mul_add_div (by omega), Nat.div_eq_of_lt hx]; omega
  · rw [Nat.mul_comm, Nat.mul_add_mod, Nat.mod_eq_of_lt hx]
  · rw [Nat.mul_add_mod, Nat.mod_eq_of_lt hc]

/-- The linear index of a pixel lies below the number of pixels. -/
theorem linearIndex_lt {w h y x : ℕ} (hx : x < w) (hy : y < h) : y * w + x < w * h := by
  have : (y + 1) * w ≤ h * w := Nat.mul_le_mul_right _ hy
  rw [Nat.add_mul] at this
  rw [Nat.mul_comm w h]; omega

/-! ### LOAD -/

/-- A signed field is below 2^31. -/
theorem sle32_lt (rd a) : sle32 rd a < 2 ^ 31 := by
  unfold sle32
  have := BitVec.toInt_lt (x := BitVec.ofNat 32 (le32 rd a))
  simpa using this

/-- A positive signed field fits its register. -/
theorem toNat_ofInt_of_pos {w : Int} (h0 : 0 < w) (h1 : w < 2 ^ 31) : (BitVec.ofInt 32 w).toNat = w.toNat := by
  rw [BitVec.toNat_ofInt]; congr 1; omega

/-- Every check of LOAD passes, in the terms of the machine (40_codec.md R111). -/
structure LoadOk (s : State) : Prop where
  len : s.fileLength ≤ s.params.fbufBytes.toNat
  hdr : 54 ≤ s.fileLength
  magic : s.fileMagicOk = true
  depth : s.fileDepth = 8 ∨ s.fileDepth = 24
  comp : s.fileDepth = 24 → s.fileCompression = 0
  pal : s.fileDepth = 8 → 1078 ≤ s.fileLength
  w : 0 < s.fileWidth
  h : 0 < s.fileHeight
  cap : s.fileWidth * s.fileHeight ≤ s.params.gridPx.toNat
  off : minOffset s.fileDepth ≤ s.fileDataOffset
  cnt : s.fileDepth = 8 → s.fileWidth * s.fileHeight ≤ s.fileByteCount
  need : s.fileNeed ≤ s.fileLength

/-- LOAD raises nothing exactly when every check passes. -/
theorem loadStatus_eq_ok_iff (s : State) : s.loadStatus = .ok ↔ LoadOk s := by
  constructor
  · intro h
    unfold State.loadStatus zext32 at h
    iterate 11 split at h <;> [(exact absurd h (by decide)); skip]
    rename_i c1 c2 c3 c4 c5 c6 c7 c8 c9 c10 c11
    exact ⟨by omega, by omega, by simpa using c3, by omega, fun hd => by by_contra hc; exact c5 ⟨hd, hc⟩,
      fun hd => by omega, by omega, by omega, by omega, by omega, fun hd => by by_contra hc; exact c10 ⟨hd, by omega⟩,
      by omega⟩
  · rintro ⟨h1, h2, h3, h4, h5, h6, h7, h8, h9, h10, h11, h12⟩
    unfold State.loadStatus zext32
    rw [if_neg (by omega), if_neg (by omega), if_neg (by simp [h3]), if_neg (by omega),
      if_neg (by rintro ⟨a, b⟩; exact b (h5 a)), if_neg (by omega), if_neg (by omega),
      if_neg (by omega), if_neg (by omega), if_neg (by rintro ⟨a, b⟩; have := h11 a; omega),
      if_neg (by omega)]

/-- The image LOAD makes has the size of the file's header. -/
theorem loadCommit_dims {s : State} (h : LoadOk s) :
    s.loadCommit.width = s.fileWidth.toNat ∧ s.loadCommit.height = s.fileHeight.toNat := by
  unfold State.width State.height
  rw [State.loadCommit_imgW, State.loadCommit_imgH]
  exact ⟨toNat_ofInt_of_pos h.w (sle32_lt _ _), toNat_ofInt_of_pos h.h (sle32_lt _ _)⟩

/-- The image LOAD makes has the file's bytes per pixel. -/
theorem loadCommit_channels {s : State} (h : LoadOk s) :
    channels s.loadCommit.imgBpp = if s.fileDepth = 24 then 3 else 1 := by
  rw [State.loadCommit_imgBpp]
  rcases h.depth with h | h <;> rw [h] <;> rfl

/-- LOAD writes exactly the image area of the image it makes. -/
theorem loadCommit_imageArea {s : State} (h : LoadOk s) : s.loadCommit.imageArea = s.loadArea := by
  unfold State.imageArea State.pixels State.loadArea
  rw [(loadCommit_dims h).1, (loadCommit_dims h).2, loadCommit_channels h]

/-- The image LOAD makes fits GRIDMEM. -/
theorem loadArea_le {s : State} (h : LoadOk s) : s.loadArea ≤ 3 * s.params.gridPx.toNat := by
  have h1 : ((s.fileWidth.toNat * s.fileHeight.toNat : ℕ) : ℤ) = s.fileWidth * s.fileHeight := by
    have := h.w; have := h.h
    push_cast; rw [Int.toNat_of_nonneg (by omega), Int.toNat_of_nonneg (by omega)]
  have := h.cap
  unfold State.loadArea
  split <;> omega

/-! ### ALLOC -/

/-- A signed operand is below 2^31. -/
theorem sext32_lt (w : Word) : sext32 w < 2 ^ 31 := by
  have := BitVec.toInt_lt (x := w); simpa [sext32] using this

/-- Every check of ALLOC passes (40_codec.md R133). -/
structure AllocOk (s : State) : Prop where
  w : 0 < s.allocWidth
  h : 0 < s.allocHeight
  depth : s.allocDepth = 8 ∨ s.allocDepth = 24
  cap : s.allocWidth * s.allocHeight ≤ s.params.gridPx.toNat

/-- ALLOC raises nothing exactly when every check passes. -/
theorem allocStatus_eq_ok_iff (s : State) : s.allocStatus = .ok ↔ AllocOk s := by
  unfold State.allocStatus zext32
  constructor
  · intro h
    iterate 3 split at h <;> [(exact absurd h (by decide)); skip]
    rename_i c1 c2 c3
    exact ⟨by omega, by omega, by omega, by omega⟩
  · rintro ⟨h1, h2, h3, h4⟩
    rw [if_neg (by omega), if_neg (by omega), if_neg (by omega)]

/-- The image ALLOC makes has the size and the depth of the operands. -/
theorem allocCommit_dims {s : State} (h : AllocOk s) :
    s.allocCommit.width = s.allocWidth.toNat ∧ s.allocCommit.height = s.allocHeight.toNat ∧ s.allocCommit.imgBpp =
      s.arg2 := by
  unfold State.width State.height
  rw [State.allocCommit_imgW, State.allocCommit_imgH, State.allocCommit_imgBpp]
  exact ⟨toNat_ofInt_of_pos h.w (sext32_lt _), toNat_ofInt_of_pos h.h (sext32_lt _), by simp [State.allocDepth, zext32]⟩

/-- ALLOC writes exactly the image area of the image it makes. -/
theorem allocCommit_imageArea {s : State} (h : AllocOk s) :
    s.allocCommit.imageArea = s.allocWidth.toNat * s.allocHeight.toNat * channels s.arg2 := by
  unfold State.imageArea State.pixels
  rw [(allocCommit_dims h).1, (allocCommit_dims h).2.1, (allocCommit_dims h).2.2]

/-! ### SAVE -/

/-- Writing the header keeps FBUF canonical. -/
theorem wf_saveHeader {s : State} (h : Memory.wf s.fbuf) : Memory.wf s.saveHeader :=
  wf_memWrite (wf_memWrite (wf_memWrite (wf_memWrite (wf_memWrite (wf_memWrite (wf_memWrite (wf_memWrite (wf_memWrite
    (Memory.wf_write (Memory.wf_write
    (Memory.wf_fill h _ _ _) _ _) _ _) _ _ _) _ _ _) _ _ _) _ _ _) _ _ _) _ _ _) _ _ _) _ _ _) _ _ _

/-- Writing the header stays within FBUF. -/
theorem within_saveHeader {s : State} {n} (h : Memory.within s.fbuf n) (hn : 54 ≤ n) : Memory.within s.saveHeader n := by
  have h0 := Memory.within_fill h (lo := 0) (n := 54) (by omega) s.hblobByte
  have h1 := Memory.within_write (a := 1) (Memory.within_write (a := 0) h0 (by omega) 0x42) (by omega) 0x4D
  exact within_memWrite (within_memWrite (within_memWrite (within_memWrite (within_memWrite (within_memWrite
    (within_memWrite (within_memWrite (within_memWrite h1 (by omega) _) (by omega) _) (by omega) _) (by omega) _)
    (by omega) _) (by omega) _) (by omega) _) (by omega) _) (by omega) _

/-- What FBUF holds at an address after the header is written: the recomputed fields, then HBLOB, then FBUF (R127). -/
theorem lookup_saveHeader (s : State) (a : ℕ) : Memory.lookup s.saveHeader a =
   if 34 ≤ a ∧ a < 38 then some (BitVec.ofNat 8 (s.saveImageSize / 256 ^ (a - 34)))
   else if 30 ≤ a ∧ a < 34 then some (BitVec.ofNat 8 (0 / 256 ^ (a - 30)))
   else if 28 ≤ a ∧ a < 30 then some (BitVec.ofNat 8 (s.imgBpp.toNat / 256 ^ (a - 28)))
   else if 26 ≤ a ∧ a < 28 then some (BitVec.ofNat 8 (1 / 256 ^ (a - 26)))
   else if 22 ≤ a ∧ a < 26 then some (BitVec.ofNat 8 (s.height / 256 ^ (a - 22)))
   else if 18 ≤ a ∧ a < 22 then some (BitVec.ofNat 8 (s.width / 256 ^ (a - 18)))
   else if 14 ≤ a ∧ a < 18 then some (BitVec.ofNat 8 (40 / 256 ^ (a - 14)))
   else if 10 ≤ a ∧ a < 14 then some (BitVec.ofNat 8 (s.saveOffset / 256 ^ (a - 10)))
   else if 2 ≤ a ∧ a < 6 then some (BitVec.ofNat 8 (s.saveFileSize / 256 ^ (a - 2)))
   else if a = 1 then some 0x4D else if a = 0 then some 0x42
   else if a < 54 then some (s.hblobByte a) else Memory.lookup s.fbuf a := by
  unfold State.saveHeader
  simp only [lookup_memWrite, Memory.lookup_write, Memory.lookup_fill, Nat.zero_le, true_and, Nat.sub_zero, Nat.zero_add]

/-- A header byte of the saved file. -/
theorem saveCommit_header (s : State) {a : ℕ} (h : a < 54) :
    s.saveCommit.fbufByte a = (Memory.lookup s.saveHeader a).getD 0 := by
  have hn : Memory.lookup s.saveHeader a ≠ none := by
    rw [lookup_saveHeader]
    repeat' split
    all_goals simp
  show (Memory.lookup s.saveFbuf a).getD _ = _
  have : Memory.lookup s.saveFbuf a = Memory.lookup s.saveHeader a := by
    unfold State.saveFbuf
    split
    · rw [Memory.lookup_fill, if_neg (by omega), Memory.lookup_fill, if_neg (by omega)]
    · rw [Memory.lookup_fill, if_neg (by omega)]
  rw [this]
  cases hl : Memory.lookup s.saveHeader a with
  | none => exact absurd hl hn
  | some v => rfl

/-- SAVE leaves the bytes past the file alone (20_memory.md R53). -/
theorem saveCommit_outside (s : State) {a : ℕ} (hb : s.imgBpp = 8 ∨ s.imgBpp = 24) (h : s.saveFileSize ≤ a) :
    s.saveCommit.fbufByte a = s.fbufByte a := by
  show (Memory.lookup s.saveFbuf a).getD _ = _
  have : Memory.lookup s.saveFbuf a = Memory.lookup s.fbuf a := by
    unfold State.saveFileSize State.saveOffset State.saveImageSize at h
    have h54 : 54 ≤ a := by split at h <;> omega
    have : Memory.lookup s.saveHeader a = Memory.lookup s.fbuf a := by
      rw [lookup_saveHeader]
      repeat rw [if_neg (by omega)]
    unfold State.saveFbuf
    rcases hb with hb | hb
    · rw [hb, if_neg (by decide), if_neg (by decide)] at h
      rw [if_pos hb, Memory.lookup_fill, if_neg (by omega), Memory.lookup_fill, if_neg (by omega), this]
    · rw [if_pos hb, if_pos hb] at h
      rw [hb, if_neg (by decide), Memory.lookup_fill, if_neg (by omega), this]
  rw [this]; rfl

/-- A byte of the stored rows of a saved 24-bit file. -/
theorem saveCommit_row (s : State) (hb : s.imgBpp = 24) {k : ℕ} (h : k < stride24 s.width * s.height) :
    s.saveCommit.fbufByte (54 + k) = s.saveRowByte k := by
  show (Memory.lookup s.saveFbuf (54 + k)).getD _ = _
  unfold State.saveFbuf
  rw [hb, if_neg (by decide), Memory.lookup_fill, if_pos (by omega), show 54 + k - 54 = k by omega]
  rfl

/-- A palette byte of a saved 8-bit file. -/
theorem saveCommit_palette (s : State) (hb : s.imgBpp = 8) {a : ℕ} (h : a < 1024) :
    s.saveCommit.fbufByte (54 + a) = s.palByte a := by
  show (Memory.lookup s.saveFbuf (54 + a)).getD _ = _
  unfold State.saveFbuf
  rw [if_pos hb, Memory.lookup_fill, if_neg (by omega), Memory.lookup_fill, if_pos (by omega), show 54 + a - 54 = a by omega]
  rfl

/-- A pixel byte of a saved 8-bit file. -/
theorem saveCommit_pixel (s : State) (hb : s.imgBpp = 8) {k : ℕ} (h : k < s.width * s.height) :
    s.saveCommit.fbufByte (1078 + k) = s.gridByte k := by
  show (Memory.lookup s.saveFbuf (1078 + k)).getD _ = _
  unfold State.saveFbuf
  rw [if_pos hb, Memory.lookup_fill, if_pos (by omega), show 1078 + k - 1078 = k by omega]
  rfl

/-- Byte c of stored row st: a channel in blue, green, red order, or padding (40_codec.md R129). -/
theorem saveRowByte_row (s : State) (st c : ℕ) (hc : c < stride24 s.width) :
    s.saveRowByte (st * stride24 s.width + c) =
      if c < 3 * s.width then s.gridByte (3 * ((s.height - 1 - st) * s.width + c / 3) + (2 - c % 3)) else 0 := by
  unfold State.saveRowByte
  have h1 : (st * stride24 s.width + c) / stride24 s.width = st := by
    rw [Nat.mul_comm, Nat.mul_add_div (by omega), Nat.div_eq_of_lt hc]; omega
  have h2 : (st * stride24 s.width + c) % stride24 s.width = c := by
    rw [Nat.mul_comm, Nat.mul_add_mod, Nat.mod_eq_of_lt hc]
  simp only [h1, h2]

/-- A byte of a stored row lies within the stored rows. -/
theorem rowIndex_lt {st c h S : ℕ} (h1 : st < h) (h2 : c < S) : st * S + c < S * h := by
  have : (st + 1) * S ≤ h * S := Nat.mul_le_mul_right _ h1
  rw [Nat.add_mul] at this
  rw [Nat.mul_comm S h]; omega

end Sys2Proof.Machine
end

