-- ==== Sys2Proof/Laws/Convolution.lean ====
section
/-! SUPPORT. The convolution engine in the terms of 42_convolution.md R170: sums, samples, and the pixel a convolution
writes. -/

namespace Sys2Proof.Machine

/-- `sumTo` is the sum over the range (00_scope.md R10). -/
theorem sumTo_eq (f : ℕ → ℤ) (n : ℕ) : sumTo f n = ∑ r ∈ Finset.range n, f r := by
  induction n with
  | zero => rfl
  | succ n ih => rw [sumTo, ih, Finset.sum_range_succ]

/-- The clamped coordinate is the nearest valid one (42_convolution.md R173). -/
theorem clampCoord_eq (v : ℤ) (n : ℕ) : clampCoord v n = (max 0 (min v ((n : ℤ) - 1))).toNat := by
  unfold clampCoord clamp
  split
  · rw [max_eq_left (by omega)]
  · split <;> omega

/-- The machine's sample is the edge-clamped one. -/
theorem sample_eq_clampedSample (s : State) (y x ch) : s.sample y x ch = clampedSample s y x ch := by
  unfold State.sample clampedSample
  rw [clampCoord_eq, clampCoord_eq]

/-- A sample is a byte. -/
theorem sample_bounds (s : State) (y x ch) : 0 ≤ s.sample y x ch ∧ s.sample y x ch ≤ 255 := by
  unfold State.sample
  have := (s.pixel (clampCoord y s.height) (clampCoord x s.width) ch).isLt
  omega

/-- What a convolution puts at a pixel (42_convolution.md R170). -/
theorem conv_pixel (s : State) (K d n) {y x ch : ℕ} (hy : y < s.height) (hx : x < s.width) (hc : ch < channels s.imgBpp) :
    ((s.conv K d n).finish .ok).pixel y x ch = byteOf (s.convPixel K d n y x ch) := by
  unfold State.pixel State.pixelAddr
  simp only [State.finish_gridByte, State.finish_width, State.finish_imgBpp, State.conv_imgBpp, State.conv_gridByte]
  have hw : (s.conv K d n).width = s.width := rfl
  rw [hw]
  obtain ⟨h1, h2, h3⟩ := linearIndex_divMod (channels s.imgBpp) s.width x y ch hx hc
  rw [if_pos]
  · unfold State.convByte
    simp only [h1, h2, h3]
  · have := linearIndex_lt hx hy
    unfold State.imageArea State.pixels
    calc channels s.imgBpp * (y * s.width + x) + ch < channels s.imgBpp * (y * s.width + x) + channels s.imgBpp := by omega
      _ = channels s.imgBpp * (y * s.width + x + 1) := by ring
      _ ≤ channels s.imgBpp * (s.width * s.height) := Nat.mul_le_mul_left _ this
      _ = _ := by ring

end Sys2Proof.Machine
end

