-- ==== Sys2Proof/Laws/Equalize.lean ====
section
/-! SUPPORT. The tables of the equalizer (43_equalize.md R201–R203) as counts of intensities. -/

namespace Sys2Proof.Machine

/-- A running sum has the length of its list. -/
theorem runningSum_length (l : List ℕ) : ∀ acc, (runningSum acc l).length = l.length := by
  induction l with
  | nil => intro; rfl
  | cons h t ih => intro acc; simp [runningSum, ih]

/-- An entry of a running sum is a sum of a prefix. -/
theorem runningSum_getD (l : List ℕ) : ∀ acc i, i < l.length → (runningSum acc l).getD i 0 = acc + (l.take (i + 1)).sum := by
  induction l with
  | nil => intro acc i h; simp at h
  | cons h t ih =>
    intro acc i hi
    cases i with
    | zero => simp [runningSum]
    | succ i =>
      have := ih (acc + h) i (by simpa using hi)
      simp only [runningSum, List.getD_cons_succ, List.take_succ_cons, List.sum_cons] at this ⊢
      rw [this]; ring

/-- Summing the counts up to i counts the values at most i. -/
theorem sum_count_range (vals : List ℕ) (i : ℕ) :
    ((List.range (i + 1)).map (fun v => vals.count v)).sum = vals.countP (fun v => decide (v ≤ i)) := by
  induction vals with
  | nil => simp
  | cons a t ih =>
    have : ∀ n, ((List.range n).map (fun v => (a :: t).count v)).sum = ((List.range n).map (fun v => t.count v)).sum +
      (if a < n then 1 else 0) := by
      intro n
      induction n with
      | zero => simp
      | succ n ihn =>
        rw [List.range_succ, List.map_append, List.map_append, List.sum_append, List.sum_append, ihn]
        simp only [List.map_cons, List.map_nil, List.sum_cons, List.sum_nil, List.count_cons]
        by_cases h1 : a < n
        · have : a ≠ n := by omega
          simp [h1, this, show a < n + 1 by omega]; omega
        · by_cases h2 : a = n
          · subst h2; simp
            omega
          · simp [h1, h2, show ¬ a < n + 1 by omega]
    rw [this, ih, List.countP_cons]
    simp only [decide_eq_true_eq]
    congr 1
    by_cases h : a ≤ i
    · rw [if_pos (by omega), if_pos h]
    · rw [if_neg (by omega), if_neg h]

/-- CDF has 256 entries (10_state.md R44). -/
theorem cdfTable_length (vals) : (cdfTable vals).length = 256 := by simp [cdfTable, runningSum_length, histogram]

/-- An entry of CDF as a count over the list of values. -/
theorem cdfTable_getD (vals : List ℕ) {i : ℕ} (hi : i < 256) :
    (cdfTable vals).getD i 0 = vals.countP (fun v => decide (v ≤ i)) := by
  unfold cdfTable
  rw [runningSum_getD _ _ _ (by simp [histogram]; exact hi), ← sum_count_range, zero_add]
  unfold histogram
  rw [← List.map_take, List.take_range]
  congr 3; omega

/-- The count over a list of values given by a function. -/
theorem countP_range_eq_countAtMost (f : ℕ → ℕ) (n i : ℕ) :
    ((List.range n).map f).countP (fun v => decide (v ≤ i)) = countAtMost f n i := by
  unfold countAtMost
  rw [List.countP_map]
  induction n with
  | zero => simp
  | succ n ih =>
    rw [List.range_succ, List.countP_append, ih, Finset.range_add_one, Finset.filter_insert]
    by_cases h : f n ≤ i
    · rw [if_pos h, Finset.card_insert_of_notMem (by simp)]; simp [h]
    · rw [if_neg h]; simp [h]

/-- CDF[i] counts the intensities at most i (43_equalize.md R203). -/
theorem cdfTable_eq_countAtMost (f : ℕ → ℕ) (n : ℕ) {i} (hi : i < 256) :
    (cdfTable ((List.range n).map f)).getD i 0 = countAtMost f n i := by
  rw [cdfTable_getD _ hi, countP_range_eq_countAtMost]

/-- A count is positive when such a value exists. -/
theorem countAtMost_pos {f : ℕ → ℕ} {n i} : 0 < countAtMost f n i ↔ ∃ p, p < n ∧ f p ≤ i := by
  unfold countAtMost
  rw [Finset.card_pos]
  constructor
  · rintro ⟨p, hp⟩; simp at hp; exact ⟨p, hp⟩
  · rintro ⟨p, hp⟩; exact ⟨p, by simpa using hp⟩

/-- No count exceeds the number of values. -/
theorem countAtMost_le {f : ℕ → ℕ} {n i} : countAtMost f n i ≤ n := by
  unfold countAtMost
  exact (Finset.card_filter_le _ _).trans (by simp)

/-- CDF is non-decreasing (43_equalize.md R203). -/
theorem countAtMost_mono {f : ℕ → ℕ} {n i j} (h : i ≤ j) : countAtMost f n i ≤ countAtMost f n j := by
  unfold countAtMost
  apply Finset.card_le_card
  intro p hp
  simp at hp ⊢; omega

/-- CDF reaches N at the highest value (43_equalize.md R203). -/
theorem countAtMost_full {f : ℕ → ℕ} {n i} (h : ∀ p, p < n → f p ≤ i) : countAtMost f n i = n := by
  unfold countAtMost
  rw [Finset.filter_true_of_mem (by intro p hp; exact h p (by simpa using hp))]; simp

/-- CDF stays below N while a larger value exists. -/
theorem countAtMost_lt {f : ℕ → ℕ} {n i} (h : ∃ p, p < n ∧ i < f p) : countAtMost f n i < n := by
  obtain ⟨p, hp, hi⟩ := h
  unfold countAtMost
  have : (Finset.filter (fun p => f p ≤ i) (Finset.range n)).card < (Finset.range n).card := by
    apply Finset.card_lt_card
    rw [Finset.filter_ssubset]
    exact ⟨p, by simpa using hp, by omega⟩
  simpa using this

/-- The table pipeline finds the lowest intensity present, and cmin (43_equalize.md R201). -/
theorem lowestPresent_eq (f : ℕ → ℕ) (n m : ℕ) (hm : IsLowest f n m) (h256 : m < 256) :
    lowestPresent ((List.range n).map f) = m ∧ cdfMin ((List.range n).map f) = countAtMost f n m := by
  have hlen := cdfTable_length ((List.range n).map f)
  have hl : lowestPresent ((List.range n).map f) = m := by
    unfold lowestPresent
    have hg : ∀ (j) (hj : j < (cdfTable ((List.range n).map f)).length), (cdfTable
      ((List.range n).map f))[j] = countAtMost f n j := by
      intro j hj
      have := cdfTable_eq_countAtMost f n (i := j) (by omega)
      rw [List.getD_eq_getElem _ _ hj] at this
      exact this
    rw [List.findIdx_eq (by omega)]
    constructor
    · rw [hg]; simp only [decide_eq_true_eq]
      obtain ⟨⟨p, hp, rfl⟩, -⟩ := hm
      exact countAtMost_pos.2 ⟨p, hp, le_rfl⟩
    · intro j hj
      rw [hg]; simp only [decide_eq_false_iff_not]
      rw [countAtMost_pos]
      rintro ⟨p, hp, h⟩
      have := hm.2 p hp; omega
  refine ⟨hl, ?_⟩
  unfold cdfMin
  rw [hl, cdfTable_eq_countAtMost _ _ h256]

end Sys2Proof.Machine
end

