-- ==== Sys2Proof/Laws/PerInstr.lean ====
section
/-! SUPPORT. Statements about every command as syntax, one lemma per constructor. -/

namespace Sys2Proof.Laws.EncodedWord

/-- The encoder's word is a well-formed command word and stands in the opcode map as this command's row, under the full mask
(30_encoding.md R80, R81, R84). -/
def Statement (i : Instr) : Prop :=
  i.wellFormed = true ∧ commandWordWellFormed (encode i) = true ∧ ⟨0xFFFFFFFF, encode i, i⟩ ∈ opcodeTable

theorem load : Statement .load := by unfold Statement; decide
theorem save : Statement .save := by unfold Statement; decide
theorem alloc : Statement .alloc := by unfold Statement; decide
theorem printInfo : Statement .printInfo := by unfold Statement; decide
theorem negative : Statement .negative := by unfold Statement; decide
theorem grayscale : Statement .grayscale := by unfold Statement; decide
theorem brightness : Statement .brightness := by unfold Statement; decide
theorem threshold : Statement .threshold := by unfold Statement; decide
theorem convolve : Statement .convolve := by unfold Statement; decide
theorem boxBlur : Statement .boxBlur := by unfold Statement; decide
theorem gaussian : Statement .gaussian := by unfold Statement; decide
theorem outline : Statement .outline := by unfold Statement; decide
theorem emboss : Statement .emboss := by unfold Statement; decide
theorem sharpen : Statement .sharpen := by unfold Statement; decide
theorem equalize : Statement .equalize := by unfold Statement; decide

end Sys2Proof.Laws.EncodedWord
end

