-- ==== Sys2Proof/Laws/Step.lean ====
section
/-! SUPPORT. What one step can do (70_reset_and_hazards.md R267): one equation per case of which agent moves. -/

namespace Sys2Proof.Machine

/-- With a command pending and the Engine's turn, the step is the Engine's. -/
theorem step_engine {s : State} {w : Word} (h : s.pending = some w) (ht : s.engineTurn = true) :
    step s = engineStep w s := by
  unfold step nextMove
  rw [h]
  cases he : s.env with
  | nil => rfl
  | cons e rest => simp [ht]

/-- With a command pending and polls left, the step is the outside world's. -/
theorem step_env_busy {s : State} {w : Word} {e : EnvEvent} {rest : List EnvEvent} (h : s.pending = some w)
    (he : s.env = e :: rest) (hp : 0 < s.polls.headD 0) : step s = s.envMove e rest := by
  have ht : s.engineTurn = false := by
    have hne : s.polls.headD 0 ≠ 0 := by omega
    unfold State.engineTurn
    rw [he]
    simpa using hne
  unfold step nextMove
  rw [h, he]
  simp [ht]

/-- With no command pending, the step is the outside world's. -/
theorem step_env_idle {s : State} {e : EnvEvent} {rest : List EnvEvent} (h : s.pending = none)
    (he : s.env = e :: rest) : step s = s.envMove e rest := by
  unfold step nextMove
  rw [h, he]

/-- With no command pending and nothing to come, the block holds its state (60_exceptions.md R247). -/
theorem step_idle {s : State} (h : s.pending = none) (he : s.env = []) : step s = .next s := by
  unfold step nextMove
  rw [h, he]

/-- What the Engine does with a word the decoder accepts. -/
theorem engineStep_of_decode {w : Word} {i : Instr} (h : decode w = .ok i) (s : State) : engineStep w s = exec i s := by
  unfold engineStep
  rw [h]

/-- What the Engine does with a word the decoder rejects (30_encoding.md R83). -/
theorem engineStep_of_error {w : Word} {e : DecodeError} (h : decode w = .error e) (s : State) :
    engineStep w s = .next (s.finish .illegalCommand) := by
  unfold engineStep
  rw [h]
  rfl

/-- Every step is one of these: the Engine's, the outside world's, or none. -/
theorem step_cases (s : State) :
    (∃ w, s.pending = some w ∧ s.engineTurn = true ∧ step s = engineStep w s) ∨
    (∃ e rest, s.env = e :: rest ∧ (s.pending = none ∨ s.engineTurn = false) ∧ step s = s.envMove e rest) ∨
    (s.pending = none ∧ s.env = [] ∧ step s = .next s) := by
  cases hp : s.pending with
  | none =>
    cases he : s.env with
    | nil => exact .inr (.inr ⟨rfl, rfl, step_idle hp he⟩)
    | cons e rest => exact .inr (.inl ⟨e, rest, rfl, .inl rfl, step_env_idle hp he⟩)
  | some w =>
    cases ht : s.engineTurn with
    | true => exact .inl ⟨w, rfl, rfl, step_engine hp ht⟩
    | false =>
      cases he : s.env with
      | nil => simp [State.engineTurn, he] at ht
      | cons e rest =>
        refine .inr (.inl ⟨e, rest, rfl, .inr rfl, ?_⟩)
        unfold step nextMove
        rw [hp, he]
        simp [ht]

end Sys2Proof.Machine
end

