-- ==== Sys2Proof/Tests/Slice0.lean ====
section
/-! SUPPORT. The model's own tests: what the well-formedness checks refuse, the written-out command words, one small step per
command with the results of 95_test_vectors.md, and for every statement with hypotheses a concrete state that meets them. -/

namespace Sys2Proof.Tests

open Sys2Proof.Machine

/-! ## Helpers -/

/-- A byte memory that lists the given values from address 0 on. -/
def cells (l : List Nat) : Memory 8 := (List.range l.length).map (fun a => (a, BitVec.ofNat 8 (l.getD a 0)))

/-- A block that holds a w×h image with the given GRIDMEM bytes. -/
def image (w h bpp : Nat) (px : List Nat) : State :=
  { State.reset with
    img := true, imgW := BitVec.ofNat 32 w, imgH := BitVec.ofNat 32 h, imgBpp := BitVec.ofNat 32 bpp, grid := cells px }

/-- A block whose FBUF begins with a file of the given bytes. -/
def file (bs : List Nat) : State := { State.reset with flen := BitVec.ofNat 32 bs.length, fbuf := cells bs }

/-- A user kernel of side n and divisor d. -/
def withKernel (s : State) (n d : Int) (ks : List Int) : State :=
  { s with
    ksize := BitVec.ofInt 32 n, kdiv := BitVec.ofInt 32 d
    kmem := (List.range ks.length).map (fun a => (a, BitVec.ofInt 32 (ks.getD a 0))) }

/-- The same block under P_NUMERICS = BINARY64. -/
def inBinary64 (s : State) : State := { s with params := { s.params with numerics := .binary64 } }

/-- STATUS and the first n bytes of GRIDMEM after the step that performs the command word w. -/
def run (w : Nat) (s : State) (n : Nat) : Option (Nat × List Nat) :=
  match step (s.withFetchWord 32 w) with
  | .next t => some (t.statusWord.toNat, (List.range n).map (fun a => (t.gridByte a).toNat))
  | _ => none

/-- STATUS, FLEN and n bytes of FBUF from lo on, after the step that performs SAVE. -/
def runSave (s : State) (lo n : Nat) : Option (Nat × Nat × List Nat) :=
  match step (s.withFetchWord 32 0x02) with
  | .next t => some (t.statusWord.toNat, t.flen.toNat, (List.range n).map (fun a => (t.fbufByte (lo + a)).toNat))
  | _ => none

/-- The 54 header bytes of a file of the tests, with the fields the tests vary. -/
def header (fsz off w h bpp isz : Nat) : List Nat :=
  [0x42, 0x4D, fsz % 256, fsz / 256, 0, 0, 0, 0, 0, 0, off % 256, off / 256, 0, 0, 40, 0, 0, 0] ++
  [w, 0, 0, 0, h, 0, 0, 0, 1, 0, bpp, 0, 0, 0, 0, 0, isz, 0, 0, 0] ++
  [0x13, 0x0B, 0, 0, 0x13, 0x0B, 0, 0, 0, 0, 0, 0, 0, 0, 0, 0]

/-- The file of V-COD-1: 24-bit, 6×1, with two padding bytes that are not zero. -/
def codFile1 : List Nat :=
  header 74 54 6 1 24 20 ++ [3, 2, 1, 13, 12, 11, 23, 22, 21, 33, 32, 31, 43, 42, 41, 53, 52, 51, 0xAA, 0xBB]

/-- The file of V-COD-3: 24-bit, 2×2. -/
def codFile3 : List Nat := header 70 54 2 2 24 16 ++ [3, 2, 1, 6, 5, 4, 0, 0, 9, 8, 7, 12, 11, 10, 0, 0]

/-- The file of V-COD-4: 8-bit, 4×1, with IMAGE_SIZE 0 and the grey-ramp palette. -/
def codFile4 : List Nat :=
  header 1082 1078 4 1 8 0 ++ (List.range 1024).map (fun a => if a % 4 = 3 then 0 else a / 4) ++ [0, 50, 100, 255]

/-! ## Well-formedness: an ill-formed term for each check (00_scope.md R7, 30_encoding.md R80, R81) -/

theorem test_params_wellFormed : Config.params.wellFormed = true := by decide
theorem test_params_no_pixel : { Config.params with gridPx := 0 }.wellFormed = false := by decide
theorem test_params_small_fbuf : { Config.params with fbufBytes := 1077 }.wellFormed = false := by decide
theorem test_params_small_kmax : { Config.params with kmax := 1 }.wellFormed = false := by decide
theorem test_params_even_kmax : { Config.params with kmax := 4 }.wellFormed = false := by decide
theorem test_word_reserved_bits : commandWordWellFormed 0x00000101 = false := by decide
theorem test_word_unmapped_opcode : commandWordWellFormed 0x00000014 = false := by decide

/-! ## Decoding: the word of each command, RSV = 0 in bits 31:8 and OPC in bits 7:0 (30_encoding.md R80, R81) -/

theorem test_decode_load : decode ((0 : BitVec 24) ++ 0b00000001#8) = .ok .load := by decide
theorem test_decode_save : decode ((0 : BitVec 24) ++ 0b00000010#8) = .ok .save := by decide
theorem test_decode_alloc : decode ((0 : BitVec 24) ++ 0b00000011#8) = .ok .alloc := by decide
theorem test_decode_printInfo : decode ((0 : BitVec 24) ++ 0b00000100#8) = .ok .printInfo := by decide
theorem test_decode_negative : decode ((0 : BitVec 24) ++ 0b00010000#8) = .ok .negative := by decide
theorem test_decode_grayscale : decode ((0 : BitVec 24) ++ 0b00010001#8) = .ok .grayscale := by decide
theorem test_decode_brightness : decode ((0 : BitVec 24) ++ 0b00010010#8) = .ok .brightness := by decide
theorem test_decode_threshold : decode ((0 : BitVec 24) ++ 0b00010011#8) = .ok .threshold := by decide
theorem test_decode_convolve : decode ((0 : BitVec 24) ++ 0b00100000#8) = .ok .convolve := by decide
theorem test_decode_boxBlur : decode ((0 : BitVec 24) ++ 0b00100001#8) = .ok .boxBlur := by decide
theorem test_decode_gaussian : decode ((0 : BitVec 24) ++ 0b00100010#8) = .ok .gaussian := by decide
theorem test_decode_outline : decode ((0 : BitVec 24) ++ 0b00100011#8) = .ok .outline := by decide
theorem test_decode_emboss : decode ((0 : BitVec 24) ++ 0b00100100#8) = .ok .emboss := by decide
theorem test_decode_sharpen : decode ((0 : BitVec 24) ++ 0b00100101#8) = .ok .sharpen := by decide
theorem test_decode_equalize : decode ((0 : BitVec 24) ++ 0b00110000#8) = .ok .equalize := by decide
theorem test_decode_reserved_bits : decode 0x80000001 = .error .reservedBits := by decide
theorem test_decode_unmapped : decode 0x00000031 = .error .unmappedOpcode := by decide
theorem test_decodeTableWord : decodeTableWord 32 0x00000024 = some .emboss := by decide

/-! ## One step per command: results of 95_test_vectors.md -/

/-- V-COD-1. -/
theorem test_load_24 : run 0x01 (file codFile1) 18 =
    some (0x200, [1, 2, 3, 11, 12, 13, 21, 22, 23, 31, 32, 33, 41, 42, 43, 51, 52, 53]) := by decide
/-- V-COD-4. -/
theorem test_load_8 : run 0x01 (file codFile4) 4 = some (0x200, [0, 50, 100, 255]) := by decide +kernel
/-- V-COD-3: SAVE of the 2×2 image writes the stored rows bottom row first, with zero padding. -/
theorem test_save_24 : runSave (image 2 2 24 [7, 8, 9, 10, 11, 12, 1, 2, 3, 4, 5, 6]) 54 16 =
    some (0x200, 70, [3, 2, 1, 6, 5, 4, 0, 0, 9, 8, 7, 12, 11, 10, 0, 0]) := by decide
/-- Program P2: the header fields of the saved 8-bit 4×4 file. -/
theorem test_save_8 : runSave (image 4 4 8 (List.replicate 16 255)) 10 28 =
    some (0x200, 1094, [54, 4, 0, 0, 40, 0, 0, 0, 4, 0, 0, 0, 4, 0, 0, 0, 1, 0, 8, 0, 0, 0, 0, 0, 16, 0, 0, 0]) := by
  decide +kernel
/-- V-COD-12. -/
theorem test_alloc : run 0x03 { State.reset with arg0 := 8, arg1 := 8, arg2 := 24 } 192 =
    some (0x200, List.replicate 192 0) := by decide +kernel
/-- V-COD-12: 72 pixels do not fit. -/
theorem test_alloc_capacity : run 0x03 { State.reset with arg0 := 8, arg1 := 9, arg2 := 8 } 0 = some (7, []) := by decide
/-- V-COD-12. -/
theorem test_printInfo : run 0x04 State.reset 0 = some (6, []) := by decide
theorem test_printInfo_ok : run 0x04 (image 1 1 8 [5]) 1 = some (0x200, [5]) := by decide
/-- V-PT-1. -/
theorem test_negative : run 0x10 (image 4 1 8 [0, 100, 128, 255]) 4 = some (0x200, [255, 155, 127, 0]) := by decide
/-- V-PT-4. -/
theorem test_grayscale :
    run 0x11 (image 6 1 24 [10, 20, 31, 0, 0, 2, 255, 255, 255, 1, 1, 0, 1, 0, 0, 0, 1, 1]) 18 =
      some (0x200, [20, 20, 20, 1, 1, 1, 255, 255, 255, 1, 1, 1, 0, 0, 0, 1, 1, 1]) := by decide
/-- V-PT-5. -/
theorem test_grayscale_8 : run 0x11 (image 2 1 8 [5, 6]) 2 = some (0x204, [5, 6]) := by decide
/-- V-PT-9b. -/
theorem test_brightness : run 0x12 { image 1 1 24 [0, 250, 253] with arg0 := 5 } 3 = some (0x200, [5, 255, 255]) := by decide
/-- V-PT-8. -/
theorem test_brightness_low : run 0x12 { image 3 1 8 [0, 127, 255] with arg0 := 0x80000000 } 3 =
    some (0x200, [0, 0, 0]) := by decide
/-- V-PT-14. -/
theorem test_threshold : run 0x13 { image 4 1 8 [0, 1, 254, 255] with arg0 := 255 } 4 = some (0x200, [0, 0, 0, 255]) := by
  decide
/-- V-PT-12. -/
theorem test_threshold_low : run 0x13 { image 4 1 8 [0, 1, 254, 255] with arg0 := 0xFFFFFFFF } 4 =
    some (0x200, [255, 255, 255, 255]) := by decide
/-- V-CNV-14: kernel entry (2, 1) moves the image down one row. -/
theorem test_convolve : run 0x20 (withKernel (image 1 3 8 [0, 100, 0]) 3 1 [0, 0, 0, 0, 0, 0, 0, 1, 0]) 3 =
    some (0x200, [0, 0, 100]) := by decide
/-- V-CNV-9: ties round away from zero. -/
theorem test_convolve_ties : run 0x20 (withKernel (image 4 1 8 [1, 3, 4, 255]) 1 2 [1]) 4 =
    some (0x200, [1, 2, 2, 128]) := by decide
/-- V-CNV-7. -/
theorem test_boxBlur : run 0x21 (image 2 1 24 [255, 0, 0, 0, 0, 255]) 6 = some (0x200, [170, 0, 85, 85, 0, 170]) := by decide
/-- V-CNV-2, under BINARY64. -/
theorem test_boxBlur_binary64 :
    run 0x21 { image 3 3 8 [0, 0, 0, 0, 90, 0, 0, 0, 0] with params := { Config.params with numerics := .binary64 } } 9 =
      some (0x200, List.replicate 9 10) := by decide
/-- V-CNV-3b. -/
theorem test_gaussian : run 0x22 (image 3 1 8 [0, 2, 0]) 3 = some (0x200, [1, 1, 1]) := by decide
/-- V-CNV-4. -/
theorem test_outline : run 0x23 (image 3 3 8 [0, 0, 0, 0, 10, 0, 0, 0, 0]) 9 =
    some (0x200, [0, 0, 0, 0, 80, 0, 0, 0, 0]) := by decide
/-- V-CNV-5. -/
theorem test_emboss : run 0x24 (image 3 3 8 [0, 0, 0, 0, 100, 0, 0, 0, 0]) 9 =
    some (0x200, [0, 0, 0, 0, 100, 100, 0, 100, 200]) := by decide
/-- V-CNV-6b. -/
theorem test_sharpen : run 0x25 (image 3 3 8 [50, 50, 50, 50, 100, 50, 50, 50, 50]) 9 =
    some (0x200, [50, 0, 50, 0, 255, 0, 50, 0, 50]) := by decide
/-- V-EQ-6. -/
theorem test_equalize_8 : run 0x30 (image 5 1 8 [3, 1, 4, 1, 5]) 5 = some (0x200, [85, 0, 170, 0, 255]) := by decide
/-- V-EQ-10. -/
theorem test_equalize_24 : run 0x30 (image 2 1 24 [255, 0, 0, 0, 0, 255]) 6 =
    some (0x200, [255, 179, 179, 0, 0, 226]) := by decide
/-- V-COD-13: an illegal word. -/
theorem test_illegal_word : run 0x00000101 State.reset 0 = some (8, []) := by decide

/-! ## Witnesses: for every statement with hypotheses, a state and operands that meet them together -/

/-- An 8-bit 2×1 image (V-EQ-2). -/
def grey : State := image 2 1 8 [10, 20]

/-- A 24-bit 2×1 image (V-EQ-10). -/
def colour : State := image 2 1 24 [255, 0, 0, 0, 0, 255]

/-- A state whose host has the given accesses to make. -/
def facing (s : State) (env : List EnvEvent) : State := { s with env := env }

/-- A state with the command word w pending, n polls before the Engine moves and the given host accesses to come. -/
def busy (s : State) (w : Word) (n : Nat) (env : List EnvEvent) : State :=
  { s with cmd := w, busy := true, pending := some w, polls := [n], env := env }

theorem inv_reset : State.reset.Inv :=
  ⟨.inl (by decide), by unfold State.BusyInv; decide, by constructor <;> decide, by constructor <;> decide,
    fun h => absurd h (by decide)⟩

theorem inv_grey : grey.Inv :=
  ⟨.inr (by decide), by unfold State.BusyInv; decide, by constructor <;> decide, by constructor <;> decide,
    by unfold State.ImageWritten; decide⟩

theorem inv_colour : colour.Inv :=
  ⟨.inr (by decide), by unfold State.BusyInv; decide, by constructor <;> decide, by constructor <;> decide,
    by unfold State.ImageWritten; decide⟩

/-- The invariant does not look at what lies outside the block. -/
theorem inv_facing {s : State} (h : s.Inv) (env : List EnvEvent) : (facing s env).Inv :=
  ⟨h.image, h.busy, ⟨h.canonical.1, h.canonical.2, h.canonical.3, h.canonical.4, h.canonical.5⟩,
    ⟨h.within.1, h.within.2, h.within.3, h.within.4, h.within.5⟩, h.written⟩

theorem inv_busy {s : State} (h : s.Inv) (w : Word) (n : Nat) (env : List EnvEvent) : (busy s w n env).Inv :=
  ⟨h.image, rfl, ⟨h.canonical.1, h.canonical.2, h.canonical.3, h.canonical.4, h.canonical.5⟩,
    ⟨h.within.1, h.within.2, h.within.3, h.within.4, h.within.5⟩, h.written⟩

/-! ### Encoding and the execution model -/

theorem witness_StepPerformsThePendingCommand :
    (busy grey 0x10 0 [.wait]).pending = some 0x10 ∧ (busy grey 0x10 0 [.wait]).engineTurn = true ∧
      (busy grey 0x10 5 []).engineTurn = true ∧ decode 0x10 = .ok .negative := by decide

theorem witness_IllegalCommandWordRaisesCodeEight :
    ((busy grey 0x101 0 []).pending = some 0x101 ∧ (busy grey 0x101 0 []).engineTurn = true ∧ rsvField 0x101 ≠ 0) ∧
    ((busy grey 0xFF 0 []).pending = some 0xFF ∧ (busy grey 0xFF 0 []).engineTurn = true ∧
      opcField 0xFF ∉ mappedOpcodes) := by decide

theorem witness_FailedCommandChangesOnlyStatus :
    ∃ t, exec .negative State.reset = .next t ∧ t.code ≠ .ok := ⟨_, rfl, by decide⟩

theorem witness_NoImageRaisesInvalidParameter :
    Instr.save ≠ .load ∧ Instr.save ≠ .alloc ∧ State.reset.img = false := by decide

theorem witness_CommandsWriteOnlyTheirWriteSet :
    (∃ t, exec .save colour = .next t ∧ t.code = .ok ∧ colour.imgBpp = 24 ∧ colour.savedLength ≤ 62) ∧
      (∃ t, exec .save grey = .next t ∧ t.code = .ok ∧ grey.imgBpp = 8) ∧
      (∃ t, exec .printInfo colour = .next t ∧ t.code = .ok) ∧
      (∃ t, exec .load (file codFile1) = .next t ∧ t.code = .ok ∧ t.imgBpp = 24 ∧ t.imageArea ≤ 18) ∧
      ∃ t, exec .negative colour = .next t ∧ t.code = .ok ∧ t.imageArea ≤ 6 :=
  ⟨⟨_, execSave_eq _, by decide⟩, ⟨_, execSave_eq _, by decide⟩, ⟨_, execPrintInfo_eq _, by decide⟩,
    ⟨_, execLoad_eq _, by decide⟩, ⟨_, execNegative_eq _, by decide⟩⟩

theorem witness_NoCommandWritesOutsideTheImageArea :
    ∃ t, exec .negative grey = .next t ∧ t.imageArea ≤ 2 := ⟨_, execNegative_eq _, by decide⟩

theorem witness_HostAccessNeverChangesStatusOrImageRegisters :
    (facing grey [.write .hblob 53 1 7]).pending = none ∧
      (∀ rest, (facing grey [.write .hblob 53 1 7]).env ≠ .reset :: rest) ∧
      ∃ t, step (facing grey [.write .hblob 53 1 7]) = .next t := by
  refine ⟨rfl, fun rest h => ?_, _, rfl⟩
  cases h

/-! ### The invariant and reset -/

/-- The Engine's step, a host step, a WAIT, a reset and the idle step. -/
theorem witness_EveryStepKeepsTheInvariant :
    ((busy grey 0x10 0 []).Inv ∧ ∃ t, step (busy grey 0x10 0 []) = .next t) ∧
    ((facing grey [.write .gridmem 1 1 9]).Inv ∧ ∃ t, step (facing grey [.write .gridmem 1 1 9]) = .next t) ∧
    ((busy grey 0x10 1 [.wait]).Inv ∧ ∃ t, step (busy grey 0x10 1 [.wait]) = .next t) ∧
    ((busy grey 0x10 1 [.reset]).Inv ∧ ∃ t, step (busy grey 0x10 1 [.reset]) = .next t) ∧
    (State.reset.Inv ∧ ∃ t, step State.reset = .next t) :=
  ⟨⟨inv_busy inv_grey _ _ _, _, rfl⟩, ⟨inv_facing inv_grey _, _, rfl⟩, ⟨inv_busy inv_grey _ _ _, _, rfl⟩,
    ⟨inv_busy inv_grey _ _ _, _, rfl⟩, ⟨inv_reset, _, rfl⟩⟩

theorem witness_CapabilityRegistersNeverChange : ∃ t, step (facing grey [.reset]) = .next t := ⟨_, rfl⟩

theorem witness_ResetEventGivesTheResetState :
    ((facing grey [.reset]).env = [.reset] ∧ (facing grey [.reset]).pending = none) ∧
    ((busy grey 0x10 1 [.reset]).env = [.reset] ∧ 0 < (busy grey 0x10 1 [.reset]).polls.headD 0) := by decide

/-! ### The host port -/

theorem witness_CmdWriteIssuesOneCommand :
    grey.pending = none ∧ grey.busy = false ∧
      (facing grey [.write .reg 0x00 4 0x10]).env = .write .reg 0x00 4 0x10 :: [] := by decide

/-- Both ends of every range the statement admits. -/
theorem witness_HostWriteSetsTheUnit :
    grey.pending = none ∧ grey.busy = false ∧ 0x08 ∈ [0x08, 0x0C, 0x10, 0x14, 0x24, 0x28] ∧
      0x28 ∈ [0x08, 0x0C, 0x10, 0x14, 0x24, 0x28] ∧ (4095 < grey.params.fbufBytes.toNat) ∧ (1023 < 1024) ∧
      (48 < grey.params.kmax.toNat * grey.params.kmax.toNat) ∧
      (facing grey [.write .reg 0x28 4 1]).env = .write .reg 0x28 4 1 :: [] ∧
      (facing grey [.write .fbuf 4095 1 1]).env = .write .fbuf 4095 1 1 :: [] ∧
      (facing grey [.write .pal 1023 1 1]).env = .write .pal 1023 1 1 :: [] ∧
      (facing grey [.write .kmem 48 4 1]).env = .write .kmem 48 4 1 :: [] := by decide

theorem witness_WritesToReadOnlyUnitsAreIgnored :
    grey.pending = none ∧ grey.busy = false ∧ (busy grey 0x10 1 []).pending = some 0x10 ∧
      (busy grey 0x10 1 []).busy = true ∧ 0 < (busy grey 0x10 1 []).polls.headD 0 ∧
      0x34 ∈ [0x04, 0x18, 0x1C, 0x20, 0x2C, 0x30, 0x34] ∧
      (facing grey [.write .reg 0x34 4 1]).env = .write .reg 0x34 4 1 :: [] ∧
      (facing grey [.write .hblob 53 1 1]).env = .write .hblob 53 1 1 :: [] ∧
      (busy grey 0x10 1 [.write .hblob 53 1 1]).env = .write .hblob 53 1 1 :: [] := by decide

theorem witness_HostReadReturnsTheUnitWithoutSideEffect :
    grey.pending = none ∧ grey.busy = false ∧ (0x34 % 4 = 0 ∧ 0x34 < 0x38) ∧ (4095 < grey.params.fbufBytes.toNat) ∧
      (48 < grey.params.kmax.toNat * grey.params.kmax.toNat) ∧
      (facing grey [.read .reg 0x34 4]).env = .read .reg 0x34 4 :: [] ∧
      (facing grey [.read .fbuf 4095 1]).env = .read .fbuf 4095 1 :: [] ∧
      (facing grey [.read .pal 1023 1]).env = .read .pal 1023 1 :: [] ∧
      (facing grey [.read .hblob 53 1]).env = .read .hblob 53 1 :: [] ∧
      (facing grey [.read .kmem 48 4]).env = .read .kmem 48 4 :: [] := by decide

/-- The last byte of the image area, the first byte past it, and the busy block. -/
theorem witness_GridAccessAdmittedOnlyInsideTheImage :
    ((facing grey [.read .gridmem 1 1]).Inv ∧ (facing grey [.read .gridmem 1 1]).pending = none ∧ 1 < grey.imageArea) ∧
    ((facing grey [.write .gridmem 2 1 0]).Inv ∧ grey.imageArea ≤ 2) ∧
    ((facing grey [.write .gridmem 1 4 0]).Inv ∧ grey.pending = none) ∧
    ((busy grey 0x10 1 [.read .gridmem 1 1]).Inv ∧ 0 < (busy grey 0x10 1 [.read .gridmem 1 1]).polls.headD 0) :=
  ⟨⟨inv_facing inv_grey _, rfl, by decide⟩, ⟨inv_facing inv_grey _, by decide⟩, ⟨inv_facing inv_grey _, rfl⟩,
    inv_busy inv_grey _ _ _, by decide⟩

/-- Each ground at a boundary: the first address past each space, the first reserved offset, a wrong width, a misaligned offset,
the first byte past the image area, no image; and, while BUSY = 1 on the host's turn, a read of ARG0 and a write of STATUS. -/
theorem witness_ForbiddenHostAccessesAreRefused :
    (∀ c ∈ [(Space.reg, 4096, 4), (.fbuf, 4096, 1), (.gridmem, 192, 1), (.pal, 1024, 1), (.hblob, 54, 1), (.kmem, 49, 4),
      (.reg, 0x38, 4), (.kmem, 0, 1), (.reg, 0x0A, 4), (.pal, 0, 4), (.gridmem, 2, 1)],
      grey.AccessForbidden c.1 c.2.1 c.2.2) ∧ State.reset.AccessForbidden .gridmem 0 1 ∧ grey.pending = none ∧
    (busy grey 0x10 1 [.read .reg 0x08 4]).busy = true ∧ 0 < (busy grey 0x10 1 [.read .reg 0x08 4]).polls.headD 0 ∧
    (busy grey 0x10 1 [.read .reg 0x08 4]).env = .read .reg 0x08 4 :: [] ∧
    (busy grey 0x10 1 [.write .reg 0x04 4 0]).busy = true ∧
    (busy grey 0x10 1 [.write .reg 0x04 4 0]).env = .write .reg 0x04 4 0 :: [] := by
  refine ⟨?_, by unfold State.AccessForbidden; decide, by decide⟩
  unfold State.AccessForbidden; decide

theorem witness_BusyHostMayPollStatus :
    ((busy grey 0x10 1 [.read .reg 0x04 4]).pending = some 0x10 ∧ (busy grey 0x10 1 [.read .reg 0x04 4]).busy = true ∧
      0 < (busy grey 0x10 1 [.read .reg 0x04 4]).polls.headD 0) ∧
    ((busy grey 0x10 1 [.wait]).env = .wait :: []) ∧
    ((facing grey [.wait]).pending = none ∧ (facing grey [.wait]).busy = false ∧ (facing grey [.wait]).env = .wait :: []) := by
  decide

theorem witness_HostCommandRunsTheCommand : grey.pending = none ∧ grey.busy = false ∧ grey.polls.headD 0 = 0 := by decide

/-! ### LOAD -/

/-- The check with index k is the first check of LOAD that fails. -/
def FailsFirst (s : State) (k : Nat) (code : StatusCode) : Prop :=
  ∃ c : Prop × StatusCode, s.loadChecks[k]? = some c ∧ c.1 ∧ c.2 = code ∧
    ∀ (j : Nat) (d : Prop × StatusCode), j < k → s.loadChecks[j]? = some d → ¬ d.1

theorem loadAccepts_codFile1 : (file codFile1).LoadAccepts := by
  unfold State.LoadAccepts State.loadChecks
  simp only [List.forall_mem_cons, List.not_mem_nil, false_imp_iff, implies_true, and_true]
  decide +kernel

theorem loadAccepts_codFile4 : (file codFile4).LoadAccepts := by
  unfold State.LoadAccepts State.loadChecks
  simp only [List.forall_mem_cons, List.not_mem_nil, false_imp_iff, implies_true, and_true]
  decide +kernel

/-- V-COD-9 E1. -/
theorem witness_LoadChecksAreMadeInOrder_1 : FailsFirst { file codFile1 with flen := 4097 } 0 .ioError := by
  refine ⟨_, rfl, by decide, rfl, fun j d hj hd => ?_⟩
  omega
/-- V-COD-9 E2. -/
theorem witness_LoadChecksAreMadeInOrder_2 : FailsFirst { file codFile1 with flen := 53 } 1 .truncatedFileError := by
  refine ⟨_, rfl, by decide, rfl, fun j d hj hd => ?_⟩
  interval_cases j
  obtain rfl := Option.some.inj hd
  decide
/-- V-COD-9 E3. -/
theorem witness_LoadChecksAreMadeInOrder_3 : FailsFirst (file (codFile1.set 0 0x43)) 2 .formatError := by
  refine ⟨_, rfl, by decide, rfl, fun j d hj hd => ?_⟩
  interval_cases j <;> (obtain rfl := Option.some.inj hd; decide)
/-- V-COD-9 E4. -/
theorem witness_LoadChecksAreMadeInOrder_4 : FailsFirst (file (codFile1.set 28 16)) 3 .unsupportedFormatError := by
  refine ⟨_, rfl, by decide, rfl, fun j d hj hd => ?_⟩
  interval_cases j <;> (obtain rfl := Option.some.inj hd; decide)
/-- V-COD-9 E5. -/
theorem witness_LoadChecksAreMadeInOrder_5 : FailsFirst (file (codFile1.set 30 1)) 4 .unsupportedFormatError := by
  refine ⟨_, rfl, by decide, rfl, fun j d hj hd => ?_⟩
  interval_cases j <;> (obtain rfl := Option.some.inj hd; decide)
/-- V-COD-9 E6. -/
theorem witness_LoadChecksAreMadeInOrder_6 : FailsFirst (file (codFile1.set 28 8)) 5 .truncatedFileError := by
  refine ⟨_, rfl, by decide, rfl, fun j d hj hd => ?_⟩
  interval_cases j <;> (obtain rfl := Option.some.inj hd; decide)
/-- V-COD-9 E7b. -/
theorem witness_LoadChecksAreMadeInOrder_7 : FailsFirst (file (codFile1.set 18 0)) 6 .unsupportedFormatError := by
  refine ⟨_, rfl, by decide, rfl, fun j d hj hd => ?_⟩
  interval_cases j <;> (obtain rfl := Option.some.inj hd; decide)
/-- V-COD-9 E8. -/
theorem witness_LoadChecksAreMadeInOrder_8 : FailsFirst (file (codFile1.set 18 65)) 7 .capacityError := by
  refine ⟨_, rfl, by decide, rfl, fun j d hj hd => ?_⟩
  interval_cases j <;> (obtain rfl := Option.some.inj hd; decide)
/-- V-COD-9 E9. -/
theorem witness_LoadChecksAreMadeInOrder_9 : FailsFirst (file (codFile1.set 10 53)) 8 .formatError := by
  refine ⟨_, rfl, by decide, rfl, fun j d hj hd => ?_⟩
  interval_cases j <;> (obtain rfl := Option.some.inj hd; decide)
/-- V-COD-9 E10. -/
theorem witness_LoadChecksAreMadeInOrder_10 : FailsFirst (file (codFile4.set 34 3)) 9 .unsupportedFormatError := by
  refine ⟨_, rfl, by decide +kernel, rfl, fun j d hj hd => ?_⟩
  interval_cases j <;> (obtain rfl := Option.some.inj hd; decide +kernel)
/-- V-COD-9 E11. -/
theorem witness_LoadChecksAreMadeInOrder_11 : FailsFirst { file codFile1 with flen := 73 } 10 .truncatedFileError := by
  refine ⟨_, rfl, by decide, rfl, fun j d hj hd => ?_⟩
  interval_cases j <;> (obtain rfl := Option.some.inj hd; decide)

theorem witness_LoadStreamsA24BitFile : (file codFile1).LoadAccepts ∧ le16 (file codFile1).fbufByte 28 = 24 :=
  ⟨loadAccepts_codFile1, by decide⟩

theorem witness_LoadCopiesAn8BitFileFlat : (file codFile4).LoadAccepts ∧ le16 (file codFile4).fbufByte 28 = 8 :=
  ⟨loadAccepts_codFile4, by decide +kernel⟩

/-- The same file with another byte in FBUF past its end, and another image held before. -/
theorem witness_LoadDependsOnTheFileImageAlone :
    let s := file codFile1
    let s' := { grey with fbuf := cells (codFile1 ++ [1]), flen := 74 }
    s'.params = s.params ∧ s'.flen = s.flen ∧ (∀ a, a < s.flen.toNat → s'.fbufByte a = s.fbufByte a) ∧
      (∃ t, exec .load s = .next t ∧ t.code = .ok) ∧ ∃ t', exec .load s' = .next t' :=
  ⟨rfl, rfl, by decide +kernel, ⟨_, execLoad_eq _, by decide⟩, _, execLoad_eq _⟩

/-! ### SAVE, ALLOC, PRINTINFO -/

/-- A 1×1 8-bit image in a block whose FBUF has n bytes (V-COD-11). -/
def tight (n : Word) : State := { image 1 1 8 [5] with params := { Config.params with fbufBytes := n } }

theorem inv_tight : (tight 1079).Inv :=
  ⟨.inr (by decide), by unfold State.BusyInv; decide, by constructor <;> decide, by constructor <;> decide,
    by unfold State.ImageWritten; decide⟩

/-- The file just fits (8 bits), and a 24-bit one. -/
theorem witness_SaveRecomputesTheHeader :
    ((tight 1079).Inv ∧ (tight 1079).img = true ∧ (tight 1079).savedLength ≤ (tight 1079).params.fbufBytes.toNat) ∧
    (colour.Inv ∧ colour.img = true ∧ colour.savedLength ≤ colour.params.fbufBytes.toNat) :=
  ⟨⟨inv_tight, by decide⟩, inv_colour, by decide⟩

theorem witness_SaveWritesThePixelData :
    (tight 1079).imgBpp = 8 ∧ colour.imgBpp = 24 ∧ 0 < colour.height ∧ 1 < colour.width ∧
      1 < (4 - 3 * colour.width % 4) % 4 ∧ 0 < (tight 1079).width * (tight 1079).height := by decide

theorem witness_SaveThatDoesNotFitRaisesIOError :
    (tight 1078).img = true ∧ (tight 1078).savedLength > (tight 1078).params.fbufBytes.toNat := by decide

theorem witness_LoadSaveLoadRoundTrip :
    (∃ t, exec .load (file codFile1) = .next t ∧ t.code = .ok) ∧ ∃ t, exec .load (file codFile4) = .next t ∧ t.code = .ok :=
  ⟨⟨_, execLoad_eq _, by decide⟩, _, execLoad_eq _, by decide +kernel⟩

theorem witness_SecondSaveWritesTheSameFile :
    ∃ t u, exec .save colour = .next t ∧ t.code = .ok ∧ exec .save t = .next u :=
  ⟨_, _, execSave_eq _, by decide, execSave_eq _⟩

/-- V-COD-12: geometry before depth, depth, and capacity. -/
theorem witness_AllocChecksAreMadeInOrder :
    ((1 : Word).toInt ≤ 0 ∨ (0 : Word).toInt ≤ 0) ∧ (0 < (1 : Word).toInt ∧ (32 : Word).toNat ≠ 8 ∧ (32 : Word).toNat ≠ 24) ∧
      (0 < (8 : Word).toInt ∧ 0 < (9 : Word).toInt ∧
        (8 : Word).toInt * (9 : Word).toInt > (State.reset.params.gridPx.toNat : Int)) := by decide

/-- The largest image that fits, in each depth. -/
theorem witness_AllocMakesABlankImage :
    0 < (8 : Word).toInt ∧ (8 : Word).toInt * (8 : Word).toInt ≤ (State.reset.params.gridPx.toNat : Int) ∧
      ((24 : Word) = 8 ∨ (24 : Word) = 24) := by decide

theorem witness_PrintInfoOnlyReportsWhetherAnImageIsHeld : grey.img = true ∧ State.reset.img = false := by decide

/-! ### Image commands -/

/-- The identity kernel of side 3 (V-CNV-1). -/
def identity3 : State := withKernel (image 3 3 8 [1, 2, 3, 4, 5, 6, 7, 8, 9]) 3 1 [0, 0, 0, 0, 1, 0, 0, 0, 0]

/-- The largest legal side, P_KMAX = 7, and the least side and divisor. -/
theorem convolveReady : ImageCommandReady .convolve (withKernel grey 7 1 []) ∧
    ImageCommandReady .convolve (withKernel grey 1 1 []) ∧ ImageCommandReady .convolve identity3 :=
  ⟨⟨rfl, by decide, by decide, by decide, by decide⟩, ⟨rfl, by decide, by decide, by decide, by decide⟩, rfl, by decide,
    by decide, by decide, by decide⟩

theorem witness_ImageCommandsCompleteAndWriteOnlyTheImageArea :
    ImageCommandReady .grayscale colour ∧ ImageCommandReady .threshold grey ∧ ImageCommandReady .convolve identity3 ∧
      ∀ i ∈ [Instr.negative, .brightness, .boxBlur, .gaussian, .outline, .emboss, .sharpen, .equalize],
        ImageCommandReady i grey := by
  refine ⟨⟨rfl, rfl⟩, ⟨rfl, rfl⟩, convolveReady.2.2, ?_⟩
  simp only [List.forall_mem_cons, List.not_mem_nil, false_imp_iff, implies_true, and_true]
  exact ⟨⟨rfl, trivial⟩, ⟨rfl, trivial⟩, ⟨rfl, trivial⟩, ⟨rfl, trivial⟩, ⟨rfl, trivial⟩, ⟨rfl, trivial⟩, ⟨rfl, trivial⟩,
    rfl, trivial⟩

theorem witness_NegativeInvertsEveryChannelByte : grey.img = true ∧ 1 < grey.imageArea := by decide

/-- An image with the bytes 127 and 128. -/
theorem witness_NegativeIsInvolutive :
    let s := image 2 1 8 [127, 128]
    s.img = true ∧ 1 < s.imageArea ∧ s.gridByte 0 = 127 ∧ s.gridByte 1 = 128 := by decide

theorem witness_GrayscaleAveragesTheChannels : colour.img = true ∧ colour.imgBpp = 24 ∧ 1 < colour.pixels := by decide

theorem witness_SecondGrayscaleChangesNothing : colour.img = true ∧ colour.imgBpp = 24 ∧ 1 < colour.pixels := by decide

theorem witness_BrightnessSaturates : colour.img = true ∧ 5 < colour.imageArea := by decide

theorem witness_BrightnessUpThenDownEndsAtZero : grey.img = true ∧ 1 < grey.imageArea := by decide

theorem witness_WrongBitDepthRaisesUnsupportedFormat :
    grey.img = true ∧ grey.imgBpp ≠ 24 ∧ colour.img = true ∧ colour.imgBpp ≠ 8 := by decide

/-- A byte on each side of the cut. -/
theorem witness_ThresholdBinarises :
    let s := { grey with arg0 := 20 }
    s.img = true ∧ s.imgBpp = 8 ∧ s.arg0.toInt ≤ ((s.gridByte 1).toNat : Int) ∧ ((s.gridByte 0).toNat : Int) < s.arg0.toInt := by
  decide

/-- The cuts 0, 255 and 256. -/
theorem witness_ThresholdIsIdempotent :
    grey.img = true ∧ grey.imgBpp = 8 ∧ 1 < grey.imageArea ∧ (0 : Word).toInt ≤ 0 ∧ 256 ≤ (256 : Word).toInt ∧
      (255 : Word).toInt = 255 := by decide

theorem witness_IllegalKernelRaisesInvalidKernel :
    grey.img = true ∧ (withKernel grey 0 1 []).ksize.toInt ≤ 0 ∧ (withKernel grey 2 1 []).ksize.toInt % 2 = 0 ∧
      (withKernel grey 9 1 []).ksize.toInt > (withKernel grey 9 1 []).params.kmax.toNat ∧
      (withKernel grey 3 0 []).kdiv.toInt ≤ 0 := by decide

theorem witness_ConvolveComputesTheWeightedSum :
    (ImageCommandReady .convolve (withKernel grey 7 1 []) ∧ (withKernel grey 7 1 []).ksize.toInt = 2 * (3 : ℕ) + 1 ∧
      grey.params.numerics = .exactArith) ∧
    (ImageCommandReady .convolve (inBinary64 (withKernel grey 1 1 [])) ∧
      (inBinary64 (withKernel grey 1 1 [])).ksize.toInt = 2 * (0 : ℕ) + 1 ∧
      (inBinary64 (withKernel grey 1 1 [])).params.numerics = .binary64) :=
  ⟨⟨convolveReady.1, by decide, rfl⟩, convolveReady.2.1, by decide, rfl⟩

theorem witness_PresetsApplyTheirMatrices :
    (∀ c ∈ presetKernels grey, c ∈ presetKernels grey ∧ grey.img = true ∧ c ∈ presetKernels (inBinary64 grey) ∧
      (inBinary64 grey).img = true) ∧
      (presetKernels grey).map Prod.fst = [.boxBlur, .gaussian, .outline, .emboss, .sharpen] :=
  ⟨fun _ h => ⟨h, rfl, h, rfl⟩, by decide⟩

/-- From any state each preset answers a next state. -/
theorem presets_answer (s : State) :
    ∀ i ∈ [Instr.boxBlur, .gaussian, .outline, .emboss, .sharpen], ∃ t, exec i s = .next t := by
  simp only [List.forall_mem_cons, List.not_mem_nil, false_imp_iff, implies_true, and_true]
  exact ⟨⟨_, preset_eq _ _ s⟩, ⟨_, preset_eq _ _ s⟩, ⟨_, preset_eq _ _ s⟩, ⟨_, preset_eq _ _ s⟩, _, preset_eq _ _ s⟩

theorem witness_PresetsIgnoreTheUserKernel :
    (∃ t, exec .boxBlur identity3 = .next t) ∧
      ∃ t', exec .boxBlur { identity3 with ksize := 2, kdiv := 0, kmem := [] } = .next t' :=
  ⟨presets_answer _ _ (by decide), presets_answer _ _ (by decide)⟩

theorem witness_IntegerPresetsAgreeInBothNumerics :
    ∀ i ∈ [Instr.gaussian, .outline, .emboss, .sharpen],
      (∃ t, exec i { colour with params := { colour.params with numerics := .exactArith } } = .next t) ∧
        ∃ t', exec i { colour with params := { colour.params with numerics := .binary64 } } = .next t' :=
  fun i hi => ⟨presets_answer _ i (List.mem_cons_of_mem _ hi), presets_answer _ i (List.mem_cons_of_mem _ hi)⟩

theorem witness_BoxBlurAgreesInBothNumerics :
    (∃ t, exec .boxBlur { colour with params := { colour.params with numerics := .exactArith } } = .next t) ∧
      ∃ t', exec .boxBlur { colour with params := { colour.params with numerics := .binary64 } } = .next t' :=
  ⟨presets_answer _ _ (by decide), presets_answer _ _ (by decide)⟩

theorem witness_IdentityKernelChangesNothing :
    ImageCommandReady .convolve identity3 ∧ identity3.ksize = 3 ∧ identity3.kdiv = 1 ∧
      ∀ i, i < 9 → identity3.kmemWord i = if i = 4 then 1 else 0 :=
  ⟨convolveReady.2.2, by decide⟩

/-! ### Equalization and arithmetic -/

theorem witness_EqualizeRemapsAnEightBitImage :
    (grey.img = true ∧ grey.imgBpp = 8 ∧ IsLowest (fun p => (grey.gridByte p).toNat) grey.pixels 10 ∧
      ∃ p, p < grey.pixels ∧ (grey.gridByte p).toNat ≠ 10) ∧
    (IsLowest (fun p => ((inBinary64 grey).gridByte p).toNat) (inBinary64 grey).pixels 10 ∧
      (inBinary64 grey).params.numerics = .binary64) :=
  ⟨⟨rfl, rfl, ⟨⟨0, by decide⟩, by decide⟩, 1, by decide⟩, ⟨⟨0, by decide⟩, by decide⟩, rfl⟩

/-- Byte 10 is the lowest intensity, 20 the highest. -/
theorem witness_EqualizeKeepsTheOrderOfIntensities :
    grey.img = true ∧ grey.imgBpp = 8 ∧ grey.params.numerics = .exactArith ∧
      (∃ p q, p < grey.pixels ∧ q < grey.pixels ∧ grey.gridByte p ≠ grey.gridByte q) ∧
      (∀ q, q < grey.pixels → (grey.gridByte 0).toNat ≤ (grey.gridByte q).toNat) ∧
      ∀ q, q < grey.pixels → (grey.gridByte q).toNat ≤ (grey.gridByte 1).toNat :=
  ⟨rfl, rfl, rfl, ⟨0, 1, by decide⟩, by decide⟩

/-- V-EQ-1. -/
theorem witness_EqualizeMapsAFlatEightBitImageToZero :
    let s := image 2 2 8 [77, 77, 77, 77]
    s.img = true ∧ s.imgBpp = 8 ∧ 0 < s.pixels ∧ ∀ p, p < s.pixels → s.gridByte p = 77 := by decide

/-- V-EQ-10: the quantised lumas are 76 and 29. -/
theorem lumaIndex_colour : colour.lumaIndex 0 = 76 ∧ colour.lumaIndex 1 = 29 := by
  have h : ∀ p ch, colour.channelQ p ch = ((colour.gridByte (3 * p + ch)).toNat : ℚ) := fun _ _ => rfl
  have b : (colour.gridByte 0).toNat = 255 ∧ (colour.gridByte 1).toNat = 0 ∧ (colour.gridByte 2).toNat = 0 ∧
      (colour.gridByte 3).toNat = 0 ∧ (colour.gridByte 4).toNat = 0 ∧ (colour.gridByte 5).toNat = 255 := by decide
  obtain ⟨b0, b1, b2, b3, b4, b5⟩ := b
  have hn : colour.params.numerics = .exactArith := rfl
  constructor <;> norm_num [State.lumaIndex, h, b0, b1, b2, b3, b4, b5, lumaQ, hn, Numerics.rnd, ratRound, clampByte, abs_of_pos] <;> rfl

/-- An image of at least one pixel has a lowest intensity. -/
theorem exists_isLowest (f : ℕ → ℕ) {n : ℕ} (h : 0 < n) : ∃ m, IsLowest f n m := by
  obtain ⟨p, hp, hmin⟩ := Finset.exists_min_image (Finset.range n) f ⟨0, by simpa using h⟩
  exact ⟨f p, ⟨p, by simpa using hp, rfl⟩, fun q hq => hmin q (by simpa using hq)⟩

/-- V-EQ-10, and the same image under BINARY64. -/
theorem witness_EqualizeRebuildsAColourImage :
    (colour.img = true ∧ colour.imgBpp = 24 ∧ IsLowest colour.lumaIndex colour.pixels 29) ∧
      (inBinary64 colour).params.numerics = .binary64 ∧
      ∃ m, IsLowest (inBinary64 colour).lumaIndex (inBinary64 colour).pixels m := by
  refine ⟨⟨rfl, rfl, ⟨1, by decide, lumaIndex_colour.2⟩, fun p hp => ?_⟩, rfl, exists_isLowest _ (by decide)⟩
  have hp : p < 2 := hp
  interval_cases p
  · rw [lumaIndex_colour.1]; decide
  · rw [lumaIndex_colour.2]

/-- V-EQ-11. -/
theorem witness_EqualizeMakesAFlatGreyColourImageBlack :
    let s := image 2 1 24 [100, 100, 100, 100, 100, 100]
    s.img = true ∧ s.imgBpp = 24 ∧ s.params.numerics = .exactArith ∧ 0 < s.pixels ∧
      ∀ a, a < 3 * s.pixels → s.gridByte a = 100 := by decide

/-- A tie: 1 + 2^53 lies between two binary64 values, and the even one is 2^53. The last clause of the statement holds at 2^53. -/
theorem witness_BinaryArithmeticRoundsToNearestEven :
    B64.ofRatio (2 ^ 53 + 1) 1 = ⟨2 ^ 52, 1⟩ ∧ B64.ofRatio (2 ^ 53) 1 = ⟨2 ^ 52, 1⟩ ∧ (0 : Nat) < 1 ∧
      (2 ^ 53 + 1 : Int) ≠ 0 := by decide

/-- IEEE 754: 0.1 is 0x3FB999999999999A, whose mantissa is 0x1999999999999A; 1/10 + 2/10 is one unit above 3/10. -/
theorem test_binary64_values :
    B64.ofRatio 1 10 = ⟨0x1999999999999A, -56⟩ ∧
      B64.add (B64.ofRatio 1 10) (B64.ofRatio 2 10) = ⟨0x13333333333334, -54⟩ ∧
      B64.ofRatio 3 10 = ⟨0x13333333333333, -54⟩ := by decide

/-- For RoundingIsToNearestTiesAway: R11's examples in the machine's own rounding. -/
theorem witness_RoundingIsToNearestTiesAway :
    (0 < 2 ∧ roundDiv 5 2 = 3 ∧ roundDiv (-5) 2 = -3) ∧ (0 < 10 ∧ roundDiv 24 10 = 2 ∧ roundDiv (-4) 10 = 0) := by decide

end Sys2Proof.Tests
end

section
/-! The integer rounding of 00_scope.md R11: the machine's quotient is the rational rounding. -/

namespace Sys2Proof.Machine

/-- R11 treats both signs alike. -/
theorem ratRound_neg (q : ℚ) : ratRound (-q) = -ratRound q := by
  unfold ratRound
  rcases lt_trichotomy q 0 with h | rfl | h
  · rw [if_neg (by linarith), if_pos h, abs_neg, neg_neg]
  · norm_num
  · rw [if_pos (by linarith), if_neg (by linarith), abs_neg]

theorem ratRound_of_nonneg {q : ℚ} (h : 0 ≤ q) : ratRound q = ⌊q + 1 / 2⌋ := by
  rw [ratRound, if_neg (not_lt.2 h), abs_of_nonneg h]

/-- Half a unit is added before the quotient is floored: (2n + d) / 2d is n/d + 1/2. -/
theorem floor_div_add_half (n : ℤ) {d : ℕ} (hd : 0 < d) : ⌊(n : ℚ) / d + 1 / 2⌋ = (2 * n + d) / (2 * d) := by
  have hd' : (d : ℚ) ≠ 0 := by positivity
  have e : (n : ℚ) / d + 1 / 2 = ((2 * n + d : ℤ) : ℚ) / (2 * d : ℕ) := by push_cast; field_simp
  rw [e, Rat.floor_intCast_div_natCast, Nat.cast_mul, Nat.cast_ofNat]

theorem roundDiv_of_nonneg {n : ℤ} (h : 0 ≤ n) (d : ℕ) : roundDiv n d = (2 * n + d) / (2 * d) := if_pos h

theorem roundDiv_of_neg {n : ℤ} (h : n < 0) (d : ℕ) : roundDiv n d = -roundDiv (-n) d := by
  rw [roundDiv_of_nonneg (n := -n) (by omega), roundDiv, if_neg (by omega)]

/-- The machine's quotient of a nonnegative integer is rounded as R11 says. -/
theorem roundDiv_eq_ratRound_of_nonneg {n : ℤ} (h : 0 ≤ n) {d : ℕ} (hd : 0 < d) :
    roundDiv n d = ratRound ((n : ℚ) / d) := by
  rw [roundDiv_of_nonneg h, ratRound_of_nonneg (by positivity), floor_div_add_half n hd]

/-- The machine's rounding of n/d is R11's `round` of the rational n/d. -/
theorem roundDiv_eq_ratRound (n : ℤ) {d : ℕ} (hd : 0 < d) : roundDiv n d = ratRound ((n : ℚ) / d) := by
  rcases le_or_gt 0 n with h | h
  · exact roundDiv_eq_ratRound_of_nonneg h hd
  · calc roundDiv n d = -roundDiv (-n) d := roundDiv_of_neg h d
      _ = -ratRound (((-n : ℤ) : ℚ) / d) := by rw [roundDiv_eq_ratRound_of_nonneg (by omega) hd]
      _ = ratRound ((n : ℚ) / d) := by rw [Int.cast_neg, neg_div, ratRound_neg, neg_neg]

/-- A rational that is the quotient n/d rounds to what the machine computes from n and d. -/
theorem ratRound_eq_roundDiv {q : ℚ} (n : ℤ) (d : ℕ) (hd : 0 < d) (hq : q = (n : ℚ) / d) : ratRound q = roundDiv n d := by
  rw [hq, roundDiv_eq_ratRound n hd]

/-- Settles O59: both signs reduce to the nonnegative quotient; R11's examples are quotients the machine computes. -/
theorem roundingIsToNearestTiesAway : Obligations.RoundingIsToNearestTiesAway := by
  refine ⟨fun n _ hd => roundDiv_eq_ratRound n hd, ?_, ?_, ?_, ?_⟩
  · exact (ratRound_eq_roundDiv 5 2 (by decide) (by norm_num)).trans (by decide)
  · exact (ratRound_eq_roundDiv (-5) 2 (by decide) (by norm_num)).trans (by decide)
  · exact (ratRound_eq_roundDiv 24 10 (by decide) (by norm_num)).trans (by decide)
  · exact (ratRound_eq_roundDiv (-4) 10 (by decide) (by norm_num)).trans (by decide)

end Sys2Proof.Machine
end

section
/-! The host's write at the port (20_memory.md R58, R61): how it is admitted, and the units it leaves alone. -/

namespace Sys2Proof.Machine

/-! ### Admission of a write -/

theorem envMove_write_of_admitted {s : State} {sp : Space} {a size : Nat} (h : s.writeRefusal sp a size = none) (v : Word)
    (rest : List EnvEvent) : s.envMove (.write sp a size v) rest = .next { s.writeUnit sp a v with env := rest } := by
  simp only [State.envMove, h]

theorem envMove_write_of_refused {s : State} {sp : Space} {a size : Nat} {r : Refusal}
    (h : s.writeRefusal sp a size = some r) (v : Word) (rest : List EnvEvent) :
    s.envMove (.write sp a size v) rest = .refused r := by
  simp only [State.envMove, h]

theorem writeRefusal_of_busy {s : State} (h : s.busy = true) (sp : Space) (a size : Nat) :
    s.writeRefusal sp a size = some (.hostWhileBusy sp a) := if_pos h

theorem writeRefusal_of_not_busy {s : State} (h : s.busy = false) (sp : Space) (a size : Nat) :
    s.writeRefusal sp a size = s.addressRefusal sp a size := if_neg (by simp [h])

/-- While BUSY = 1 no write is admitted, whatever it addresses (70_reset_and_hazards.md R272). -/
theorem envMove_write_of_busy {s : State} (h : s.busy = true) (sp : Space) (a size : Nat) (v : Word)
    (rest : List EnvEvent) : s.envMove (.write sp a size v) rest = .refused (.hostWhileBusy sp a) :=
  envMove_write_of_refused (writeRefusal_of_busy h sp a size) v rest

/-! ### The register map as offsets of registers (10_state.md R23) -/

@[simp] theorem regAt_offset (r : Reg) : regAt r.offset = some r := by cases r <;> rfl

theorem Reg.offset_aligned (r : Reg) : r.offset % 4 = 0 := by cases r <;> rfl

theorem Reg.offset_lt (r : Reg) : r.offset < 0x38 := by cases r <;> decide

/-- Every register is a word of REG at an offset the host may use. -/
@[simp] theorem addressRefusal_reg_offset (s : State) (r : Reg) : s.addressRefusal .reg r.offset 4 = none := by
  have hlt : ¬ s.spaceSize .reg ≤ r.offset := Nat.not_le.2 (r.offset_lt.trans (by decide : 0x38 < 4096))
  simp [State.addressRefusal, Space.unitBytes, r.offset_aligned, hlt]

@[simp] theorem writeUnit_reg_offset (s : State) (r : Reg) (v : Word) :
    s.writeUnit .reg r.offset v = s.regWrite r v := by
  simp only [State.writeUnit, regAt_offset]

theorem addressRefusal_hblob (s : State) {a : Nat} (h : a < 54) : s.addressRefusal .hblob a 1 = none := by
  have hlt : ¬ s.spaceSize .hblob ≤ a := Nat.not_le.2 h
  simp [State.addressRefusal, Space.unitBytes, hlt]

@[simp] theorem writeUnit_hblob (s : State) (a : Nat) (v : Word) : s.writeUnit .hblob a v = s := rfl

/-! ### The units a write leaves alone -/

/-- The read-only registers (10_state.md R23). -/
def Reg.readOnly : List Reg := [.status, .imgW, .imgH, .imgBpp, .capGridPx, .capFbuf, .capKmax]

theorem Reg.readOnly_offsets : Reg.readOnly.map Reg.offset = [0x04, 0x18, 0x1C, 0x20, 0x2C, 0x30, 0x34] := rfl

/-- A read-only register ignores the write (10_state.md R37): one arm of the register write per member. -/
theorem regWrite_of_readOnly {r : Reg} (h : r ∈ Reg.readOnly) (s : State) (v : Word) : s.regWrite r v = s := by
  fin_cases h <;> rfl

/-- While BUSY = 0, a write that is admitted by its address and changes no unit only passes the turn on. -/
theorem envMove_write_of_ignored {s : State} {sp : Space} {a size : Nat} {v : Word} (hb : s.busy = false)
    (ha : s.addressRefusal sp a size = none) (hw : s.writeUnit sp a v = s) (rest : List EnvEvent) :
    s.envMove (.write sp a size v) rest = .next { s with env := rest } := by
  rw [envMove_write_of_admitted ((writeRefusal_of_not_busy hb sp a size).trans ha) v rest, hw]

/-- Both kinds of ignored unit are at admitted addresses and hold against the write (20_memory.md R50, R61). -/
theorem write_ignored_of_readOnly {sp : Space} {a size : Nat}
    (h : (sp = .reg ∧ size = 4 ∧ a ∈ [0x04, 0x18, 0x1C, 0x20, 0x2C, 0x30, 0x34]) ∨ (sp = .hblob ∧ size = 1 ∧ a < 54))
    (s : State) (v : Word) : s.addressRefusal sp a size = none ∧ s.writeUnit sp a v = s := by
  obtain ⟨rfl, rfl, ha⟩ | ⟨rfl, rfl, ha⟩ := h
  · rw [← Reg.readOnly_offsets] at ha
    obtain ⟨r, hr, rfl⟩ := List.mem_map.1 ha
    exact ⟨addressRefusal_reg_offset s r, (writeUnit_reg_offset s r v).trans (regWrite_of_readOnly hr s v)⟩
  · exact ⟨addressRefusal_hblob s ha, writeUnit_hblob s a v⟩

/-- Settles O19: idle, the admitted write leaves the state as it is; busy, every write is refused. -/
theorem writesToReadOnlyUnitsAreIgnored : Obligations.WritesToReadOnlyUnitsAreIgnored := by
  intro s sp a size v rest he hunit
  obtain ⟨haddr, hwrite⟩ := write_ignored_of_readOnly hunit s v
  constructor
  · intro hp hb
    exact (step_env_idle hp he).trans (envMove_write_of_ignored hb haddr hwrite rest)
  · intro w hp hb hpolls
    exact (step_env_busy hp he hpolls).trans (envMove_write_of_busy hb sp a size v rest)

end Sys2Proof.Machine
end

section
/-! The host's turn at the port (20_memory.md R55, R58): an access is admitted exactly when R58 does not forbid it. -/

namespace Sys2Proof.Machine

/-! ### The outside world's turn -/

/-- With no command pending, or with polls left, the next outside move is the step (70_reset_and_hazards.md R267, R268). -/
theorem step_env {s : State} {e : EnvEvent} {rest : List EnvEvent} (turn : s.pending = none ∨ 0 < s.polls.headD 0)
    (he : s.env = e :: rest) : step s = s.envMove e rest := by
  cases hp : s.pending with
  | none => exact step_env_idle hp he
  | some w => exact step_env_busy hp he (turn.resolve_left (by simp [hp]))

theorem pollsAfterHostMove_of_idle {s : State} (h : s.pending = none) : s.pollsAfterHostMove = s.polls := by
  simp [State.pollsAfterHostMove, h]

/-- BUSY = 0 and no command pending are the same (10_state.md R27, R46). -/
theorem State.BusyInv.pending_eq_none {s : State} (h : s.BusyInv) (hb : s.busy = false) : s.pending = none := by
  rw [State.BusyInv, hb] at h
  simpa using h.symm

/-! ### Admission by address, width and alignment -/

theorem offset_of_regAt_eq_some {a : Nat} {r : Reg} (h : regAt a = some r) : r.offset = a := by
  unfold regAt at h
  split at h <;> cases h <;> rfl

/-- The registers stand at the multiples of 4 below 0x38; every other offset is reserved (10_state.md R23). -/
theorem regAt_eq_none_iff {a : Nat} (ha : a % 4 = 0) : regAt a = none ↔ 0x38 ≤ a := by
  constructor
  · intro h
    by_contra hlt
    obtain ⟨k, rfl⟩ := Nat.dvd_of_mod_eq_zero ha
    have hk : k < 14 := by omega
    interval_cases k <;> cases h
  · intro h
    refine Option.eq_none_iff_forall_ne_some.2 fun r hr => ?_
    exact absurd (offset_of_regAt_eq_some hr ▸ r.offset_lt) (Nat.not_lt.2 h)

/-- The four checks of the port: width and alignment, size, reserved offset, image area (20_memory.md R58). -/
theorem addressRefusal_eq_none_iff (s : State) (sp : Space) (a size : Nat) :
    s.addressRefusal sp a size = none ↔
      ¬(size ≠ sp.unitBytes ∨ (sp = .reg ∧ a % 4 ≠ 0)) ∧ ¬ s.spaceSize sp ≤ a ∧ ¬(sp = .reg ∧ regAt a = none) ∧
        ¬(sp = .gridmem ∧ (s.img = false ∨ s.imageArea ≤ a)) := by
  simp only [State.addressRefusal, ite_eq_iff, reduceCtorEq, and_false, false_or, and_true]

/-- The checks of the port fail on exactly the grounds R58 has for reads and writes alike (20_memory.md R58). -/
theorem addressRefusal_eq_none_iff_not_forbidden (s : State) (sp : Space) (a size : Nat) :
    s.addressRefusal sp a size = none ↔ ¬ s.AccessForbidden sp a size := by
  rw [addressRefusal_eq_none_iff]
  cases sp with
  | reg =>
    by_cases ha : a % 4 = 0
    · simp only [State.AccessForbidden, Space.unitBytes, State.spaceSize, regAt_eq_none_iff ha, reduceCtorEq, false_and,
        true_and, or_self, false_or, or_false, not_false_eq_true, and_true]
      omega
    · simp [State.AccessForbidden, ha]
  | fbuf | gridmem | pal | hblob | kmem =>
    simp only [State.AccessForbidden, Space.unitBytes, State.spaceSize, zext32, reduceCtorEq, false_and, true_and]
    tauto

/-! ### Admission of a read and of a write -/

/-- A read is admitted when R58 does not forbid it and, while BUSY = 1, it is that of STATUS
(70_reset_and_hazards.md R272). -/
theorem readRefusal_eq_none_iff (s : State) (sp : Space) (a size : Nat) :
    s.readRefusal sp a size = none ↔
      ¬(s.AccessForbidden sp a size ∨ (s.busy = true ∧ ¬(sp = .reg ∧ a = Reg.status.offset))) := by
  rw [not_or, and_comm, ← addressRefusal_eq_none_iff_not_forbidden]
  simp only [State.readRefusal, ite_eq_iff, reduceCtorEq, and_false, false_or]

/-- A write is admitted when R58 does not forbid it and BUSY is 0 (70_reset_and_hazards.md R272). -/
theorem writeRefusal_eq_none_iff (s : State) (sp : Space) (a size : Nat) :
    s.writeRefusal sp a size = none ↔ ¬(s.AccessForbidden sp a size ∨ s.busy = true) := by
  rw [not_or, and_comm, ← addressRefusal_eq_none_iff_not_forbidden]
  simp only [State.writeRefusal, ite_eq_iff, reduceCtorEq, and_false, false_or]

theorem envMove_read_of_admitted {s : State} {sp : Space} {a size : Nat} (h : s.readRefusal sp a size = none)
    (rest : List EnvEvent) : s.envMove (.read sp a size) rest =
      .next { s with lastRead := some (s.readUnit sp a), env := rest, polls := s.pollsAfterHostMove } := by
  simp only [State.envMove, h]

theorem envMove_read_refused {s : State} {sp : Space} {a size : Nat} (h : s.readRefusal sp a size ≠ none)
    (rest : List EnvEvent) : ∃ r, s.envMove (.read sp a size) rest = .refused r := by
  obtain ⟨r, hr⟩ := Option.ne_none_iff_exists'.1 h
  exact ⟨r, by simp only [State.envMove, hr]⟩

theorem envMove_write_refused {s : State} {sp : Space} {a size : Nat} (h : s.writeRefusal sp a size ≠ none) (v : Word)
    (rest : List EnvEvent) : ∃ r, s.envMove (.write sp a size v) rest = .refused r := by
  obtain ⟨r, hr⟩ := Option.ne_none_iff_exists'.1 h
  exact ⟨r, envMove_write_of_refused hr v rest⟩

/-- Settles O22: on the outside world's turn the step is the access, and a ground of R58 or R272 is one on which the port
admits none. -/
theorem forbiddenHostAccessesAreRefused : Obligations.ForbiddenHostAccessesAreRefused := by
  intro s sp a size v rest turn
  constructor
  · intro hforbidden he
    rw [step_env turn he]
    exact envMove_read_refused (fun h => (readRefusal_eq_none_iff s sp a size).1 h hforbidden) rest
  · intro hforbidden he
    rw [step_env turn he]
    exact envMove_write_refused (fun h => (writeRefusal_eq_none_iff s sp a size).1 h hforbidden) v rest

/-! ### GRIDMEM (20_memory.md R55) -/

/-- The image area lies inside GRIDMEM, so R55's three conditions leave no other ground of R58. -/
theorem accessForbidden_gridmem_iff {s : State} (hinv : s.ImageInv) (a size : Nat) :
    s.AccessForbidden .gridmem a size ↔ ¬(size = 1 ∧ s.img = true ∧ a < s.imageArea) := by
  simp only [State.AccessForbidden, reduceCtorEq, false_and, false_or, true_and, or_self, or_false]
  cases hi : s.img with
  | false => simp
  | true =>
    obtain ⟨hfits, -⟩ := imageArea_le hinv hi
    simp only [reduceCtorEq, false_or, true_and]
    omega

theorem readRefusal_gridmem_eq_none_iff {s : State} (hinv : s.ImageInv) (a size : Nat) :
    s.readRefusal .gridmem a size = none ↔ size = 1 ∧ s.busy = false ∧ s.img = true ∧ a < s.imageArea := by
  rw [readRefusal_eq_none_iff, accessForbidden_gridmem_iff hinv]
  cases s.busy <;> simp

theorem writeRefusal_gridmem_eq_none_iff {s : State} (hinv : s.ImageInv) (a size : Nat) :
    s.writeRefusal .gridmem a size = none ↔ size = 1 ∧ s.busy = false ∧ s.img = true ∧ a < s.imageArea := by
  rw [writeRefusal_eq_none_iff, accessForbidden_gridmem_iff hinv]
  cases s.busy <;> simp

/-- A host write of GRIDMEM sets the byte it addresses and no other (20_memory.md R55). -/
theorem writeUnit_gridmem_gridByte (s : State) (a : Nat) (v : Word) (b : Nat) :
    (s.writeUnit .gridmem a v).gridByte b = if b = a then v.setWidth 8 else s.gridByte b := by
  unfold State.gridByte State.writeUnit
  rw [Memory.lookup_write]
  split <;> rfl

/-- Settles O21: the image invariant puts the image area inside GRIDMEM, so the port's checks come down to R55's; and with
BUSY = 0 nothing is pending, so that a read takes no poll. -/
theorem gridAccessAdmittedOnlyInsideTheImage : Obligations.GridAccessAdmittedOnlyInsideTheImage := by
  intro s a size v rest hinv turn
  constructor
  · intro he
    rw [step_env turn he]
    split
    next hadm =>
      have ⟨_, hidle, _⟩ := hadm
      rw [envMove_read_of_admitted ((readRefusal_gridmem_eq_none_iff hinv.image a size).2 hadm),
        pollsAfterHostMove_of_idle (hinv.busy.pending_eq_none hidle)]
      rfl
    next hadm => exact envMove_read_refused (mt (readRefusal_gridmem_eq_none_iff hinv.image a size).1 hadm) rest
  · intro he
    rw [step_env turn he]
    split
    next hadm =>
      refine ⟨_, envMove_write_of_admitted ((writeRefusal_gridmem_eq_none_iff hinv.image a size).2 hadm) v rest, ?_,
        fun b hb => ?_, rfl⟩
      · exact (writeUnit_gridmem_gridByte s a v a).trans (if_pos rfl)
      · exact (writeUnit_gridmem_gridByte s a v b).trans (if_neg hb)
    next hadm => exact envMove_write_refused (mt (writeRefusal_gridmem_eq_none_iff hinv.image a size).1 hadm) v rest

end Sys2Proof.Machine
end

section
/-! What a command can do (20_memory.md R67): five kinds of effect, and what each leaves unchanged. -/

namespace Sys2Proof.Machine

/-! ### The frame of a command that writes GRIDMEM alone -/

/-- Updating the first n bytes of GRIDMEM and the draws of the scratch memories keeps everything else. -/
theorem writesGridBelow_setGrid (s : State) (n : Nat) (f : Nat → Byte) (scr eq : Nat) :
    WritesGridBelow n s ({ s.setGrid n f with scrDraws := scr, eqDraws := eq }.finish .ok) where
  ended := ⟨rfl, rfl, rfl⟩
  hostRegisters := ⟨rfl, rfl, rfl, rfl, rfl, rfl, rfl⟩
  imageRegisters := ⟨rfl, rfl, rfl, rfl⟩
  flen := rfl
  outside := ⟨rfl, rfl, rfl, rfl⟩
  grid := fun a ha => (State.setGrid_gridByte s n f a).trans (if_neg (Nat.not_lt.2 ha))
  fbuf := fun _ => rfl
  pal := fun _ => rfl
  hblob := fun _ => rfl
  kmem := fun _ => rfl

theorem writesGridBelow_conv (s : State) (K : Nat → Nat → Int) (d n : Nat) :
    WritesGridBelow s.imageArea s ((s.conv K d n).finish .ok) :=
  writesGridBelow_setGrid s _ _ _ _

/-- Either path of EQUALIZE updates the whole image area (43_equalize.md R200). -/
theorem writesGridBelow_equalizeCommit (s : State) : WritesGridBelow s.imageArea s (s.equalizeCommit.finish .ok) := by
  unfold State.equalizeCommit
  split
  next h => exact imageArea_of_8 h ▸ writesGridBelow_setGrid s _ _ _ _
  next h => exact imageArea_of_ne_8 h ▸ writesGridBelow_setGrid s _ _ _ _

/-- The image area is that of the image registers (20_memory.md R54). -/
theorem SameImageRegisters.imageArea {s t : State} (h : SameImageRegisters s t) : t.imageArea = s.imageArea := by
  obtain ⟨-, hw, hh, hb⟩ := h
  rw [State.imageArea, State.imageArea, State.pixels, State.pixels, State.width, State.width, State.height, State.height,
    hw, hh, hb]

/-! ### The effect of a command -/

/-- Everything a command can do to a state, with the checks it made first. -/
inductive CommandEffect : Instr → State → State → Prop
  /-- A failing command, or PRINTINFO: STATUS is all that changes (60_exceptions.md R233, 40_codec.md R138). -/
  | statusOnly (i : Instr) (s : State) (c : StatusCode) : CommandEffect i s (s.finish c)
  /-- LOAD of an accepted file (40_codec.md R121). -/
  | load {s : State} : LoadOk s → CommandEffect .load s (s.loadCommit.finish .ok)
  /-- SAVE of an image whose file fits FBUF (40_codec.md R126). -/
  | save {s : State} : s.img = true → s.saveFileSize ≤ s.params.fbufBytes.toNat →
      CommandEffect .save s (s.saveCommit.finish .ok)
  /-- ALLOC of legal operands (40_codec.md R134). -/
  | alloc {s : State} : AllocOk s → CommandEffect .alloc s (s.allocCommit.finish .ok)
  /-- Any other command on a held image: an update of the image area. -/
  | imageArea {i : Instr} {s t : State} : i ∉ [.load, .save, .alloc, .printInfo] → s.img = true →
      WritesGridBelow s.imageArea s t → CommandEffect i s t

/-- A command that checks first that an image is held, and ends with InvalidParameterError if not (60_exceptions.md R232). -/
theorem CommandEffect.of_image_check {i : Instr} {s t : State} (h : s.img = true → CommandEffect i s t) :
    CommandEffect i s (if s.img = false then s.finish .invalidParameterError else t) := by
  split
  next => exact .statusOnly i s _
  next himg => exact h (by simpa using himg)

/-- A preset, whatever its matrix (42_convolution.md R178). -/
theorem preset_effect {i : Instr} (hi : i ∉ [.load, .save, .alloc, .printInfo]) (rows : List Int) (d : Nat) (s : State) :
    ∃ t, preset rows d s = .next t ∧ CommandEffect i s t :=
  ⟨_, preset_eq rows d s, .of_image_check fun himg => .imageArea hi himg (writesGridBelow_conv s _ _ _)⟩

/-- Every command in every state answers a next state, with one of the effects (60_exceptions.md R249). -/
theorem exec_effect (i : Instr) (s : State) : ∃ t, exec i s = .next t ∧ CommandEffect i s t := by
  cases i with
  | load =>
    refine ⟨_, execLoad_eq s, ?_⟩
    split
    next h => exact .load ((loadStatus_eq_ok_iff s).1 h)
    next => exact .statusOnly _ s _
  | save =>
    refine ⟨_, execSave_eq s, .of_image_check fun himg => ?_⟩
    split
    next => exact .statusOnly _ s _
    next hfits => exact .save himg (Nat.not_lt.1 hfits)
  | alloc =>
    refine ⟨_, execAlloc_eq s, ?_⟩
    split
    next h => exact .alloc ((allocStatus_eq_ok_iff s).1 h)
    next => exact .statusOnly _ s _
  | printInfo => exact ⟨_, execPrintInfo_eq s, .statusOnly _ s _⟩
  | negative =>
    exact ⟨_, execNegative_eq s, .of_image_check fun himg =>
      .imageArea (by decide) himg (writesGridBelow_setGrid s _ _ _ _)⟩
  | brightness =>
    exact ⟨_, execBrightness_eq s, .of_image_check fun himg =>
      .imageArea (by decide) himg (writesGridBelow_setGrid s _ _ _ _)⟩
  | grayscale =>
    refine ⟨_, execGrayscale_eq s, .of_image_check fun himg => ?_⟩
    split
    next => exact .statusOnly _ s _
    next hb =>
      exact .imageArea (by decide) himg (imageArea_of_24 (not_not.1 hb) ▸ writesGridBelow_setGrid s _ _ _ _)
  | threshold =>
    refine ⟨_, execThreshold_eq s, .of_image_check fun himg => ?_⟩
    split
    next => exact .statusOnly _ s _
    next hb =>
      exact .imageArea (by decide) himg (imageArea_of_8 (not_not.1 hb) ▸ writesGridBelow_setGrid s _ _ _ _)
  | convolve =>
    refine ⟨_, execConvolve_eq s, .of_image_check fun himg => ?_⟩
    split
    next => exact .statusOnly _ s _
    next => exact .imageArea (by decide) himg (writesGridBelow_conv s _ _ _)
  | boxBlur => exact preset_effect (by decide) _ _ s
  | gaussian => exact preset_effect (by decide) _ _ s
  | outline => exact preset_effect (by decide) _ _ s
  | emboss => exact preset_effect (by decide) _ _ s
  | sharpen => exact preset_effect (by decide) _ _ s
  | equalize =>
    exact ⟨_, execEqualize_eq s, .of_image_check fun himg =>
      .imageArea (by decide) himg (writesGridBelow_equalizeCommit s)⟩

/-- Whatever a command answers is one of the effects. -/
theorem effect_of_exec {i : Instr} {s t : State} (h : exec i s = .next t) : CommandEffect i s t := by
  obtain ⟨u, hu, heffect⟩ := exec_effect i s
  obtain rfl : u = t := Host.Outcome.next.inj (hu.symm.trans h)
  exact heffect

/-! ### What each effect leaves unchanged -/

/-- The length of the file SAVE makes, in the terms of 40_codec.md R126. -/
theorem saveFileSize_eq_savedLength (s : State) : s.saveFileSize = s.savedLength := by
  unfold State.saveFileSize State.saveOffset State.saveImageSize State.savedLength
  split <;> rfl

namespace CommandEffect

variable {i : Instr} {s t : State}

/-- No command writes what only the host writes (10_state.md R24, R29, R34, R35). -/
theorem sameHostRegisters (h : CommandEffect i s t) : SameHostRegisters s t := by
  cases h with
  | imageArea _ _ hgrid => exact hgrid.hostRegisters
  | _ => exact ⟨rfl, rfl, rfl, rfl, rfl, rfl, rfl⟩

/-- No command writes KMEM (10_state.md R43). -/
theorem sameKmem (h : CommandEffect i s t) : SameMemory .kmem s t := by
  cases h with
  | imageArea _ _ hgrid => exact hgrid.kmem
  | _ => exact fun _ => rfl

/-- Only LOAD and ALLOC make another image (10_state.md R28, R31, R32, R41, R42). -/
theorem sameImage (h : CommandEffect i s t) (hl : i ≠ .load) (ha : i ≠ .alloc) :
    SameImageRegisters s t ∧ SameMemory .hblob s t ∧ SameMemory .pal s t := by
  cases h with
  | load => exact absurd rfl hl
  | alloc => exact absurd rfl ha
  | imageArea _ _ hgrid => exact ⟨hgrid.imageRegisters, hgrid.hblob, hgrid.pal⟩
  | _ => exact ⟨⟨rfl, rfl, rfl, rfl⟩, fun _ => rfl, fun _ => rfl⟩

/-- A LOAD that ends with a 24-bit image keeps PAL (40_codec.md R121): a failed one keeps it whatever the depth. -/
theorem samePal_of_load (h : CommandEffect .load s t) (hb : t.imgBpp = 24) : SameMemory .pal s t := by
  cases h with
  | statusOnly => exact fun _ => rfl
  | load hok =>
    have hdepth : s.fileDepth = 24 := by
      refine hok.depth.resolve_left fun h8 => ?_
      rw [State.finish_imgBpp, State.loadCommit_imgBpp, h8] at hb
      exact absurd hb (by decide)
    intro a
    simp only [State.readUnit, State.finish_palByte, State.loadCommit_palByte, hdepth, ne_eq, not_true_eq_false,
      false_and, if_false]
  | imageArea hi => exact absurd hi (by decide)

/-- Only SAVE writes the file image (10_state.md R30, R40). -/
theorem sameFile (h : CommandEffect i s t) (hs : i ≠ .save) : SameMemory .fbuf s t ∧ t.flen = s.flen := by
  cases h with
  | save => exact absurd rfl hs
  | imageArea _ _ hgrid => exact ⟨hgrid.fbuf, hgrid.flen⟩
  | _ => exact ⟨fun _ => rfl, rfl⟩

/-- SAVE writes FBUF below the length of the file it makes (40_codec.md R129). -/
theorem save_fbufByte (h : CommandEffect .save s t) (hb : s.imgBpp = 8 ∨ s.imgBpp = 24) {a : Nat}
    (ha : s.savedLength ≤ a) : t.fbufByte a = s.fbufByte a := by
  cases h with
  | statusOnly => rfl
  | save => exact saveCommit_outside s hb ((saveFileSize_eq_savedLength s).trans_le ha)
  | imageArea hi => exact absurd hi (by decide)

/-- SAVE and PRINTINFO write no byte of GRIDMEM (20_memory.md R67). -/
theorem sameGrid (h : CommandEffect i s t) (hi : i = .save ∨ i = .printInfo) : SameMemory .gridmem s t := by
  cases h with
  | statusOnly | save => exact fun _ => rfl
  | load | alloc => exact absurd hi (by decide)
  | imageArea hnot => obtain rfl | rfl := hi <;> exact absurd hnot (by decide)

/-- No command writes GRIDMEM at or above the image area it leaves (10_state.md R38). -/
theorem gridByte_of_imageArea_le (h : CommandEffect i s t) {a : Nat} (ha : t.imageArea ≤ a) :
    t.gridByte a = s.gridByte a := by
  cases h with
  | statusOnly | save => rfl
  | load hok =>
    rw [State.finish_imageArea, loadCommit_imageArea hok] at ha
    exact (State.loadCommit_gridByte s a).trans (if_neg (Nat.not_lt.2 ha))
  | alloc hok =>
    rw [State.finish_imageArea, allocCommit_imageArea hok] at ha
    exact (State.allocCommit_gridByte s a).trans (if_neg (Nat.not_lt.2 ha))
  | imageArea _ _ hgrid => exact hgrid.grid a (hgrid.imageRegisters.imageArea ▸ ha)

end CommandEffect

/-- Settles O8: each command has one of five effects, and each clause of R67 is a frame of all five. -/
theorem commandsWriteOnlyTheirWriteSet : Obligations.CommandsWriteOnlyTheirWriteSet := by
  intro i s t h
  have heffect := effect_of_exec h
  refine ⟨heffect.sameHostRegisters, heffect.sameKmem, heffect.sameImage, ?_, heffect.sameFile, ?_, heffect.sameGrid,
    fun _ => heffect.gridByte_of_imageArea_le⟩
  · rintro rfl
    exact heffect.samePal_of_load
  · rintro rfl hb _
    exact heffect.save_fbufByte hb

end Sys2Proof.Machine
end

section
/-! The words the decoder rejects (30_encoding.md R83), and what the Engine does with one. -/

namespace Sys2Proof.Machine

/-- The table's masks are full, so a row matches its value alone (30_encoding.md R84). -/
theorem opcodeTable_row {row : OpcodeRow} (h : row ∈ opcodeTable) :
    row.mask = BitVec.allOnes 32 ∧ row.value = encode row.instr := by
  revert row
  decide

/-- A command has one word (30_encoding.md R84). -/
theorem eq_encode_of_decode {w : Word} {i : Instr} (h : decode w = .ok i) : w = encode i := by
  unfold decode at h
  split at h
  next row hfind =>
    obtain rfl : row.instr = i := Except.ok.inj h
    obtain ⟨hmask, hvalue⟩ := opcodeTable_row (List.mem_of_find?_eq_some hfind)
    have hmatch : w &&& row.mask = row.value := by simpa using List.find?_some hfind
    rw [← hvalue, ← hmatch, hmask, BitVec.and_allOnes]
  next => cases h

/-- The word of a command is legal (30_encoding.md R81). -/
theorem encode_legal (i : Instr) : rsvField (encode i) = 0 ∧ opcField (encode i) ∈ mappedOpcodes := by
  cases i <;> decide

/-- An illegal word selects no command: every selected command's word is legal (30_encoding.md R83). -/
theorem decode_error_of_illegal {w : Word} (h : rsvField w ≠ 0 ∨ opcField w ∉ mappedOpcodes) :
    ∃ e, decode w = .error e := by
  cases hd : decode w with
  | error e => exact ⟨e, rfl⟩
  | ok i =>
    obtain ⟨hrsv, hopc⟩ := encode_legal i
    rw [← eq_encode_of_decode hd] at hrsv hopc
    exact absurd h (not_or.2 ⟨not_not.2 hrsv, not_not.2 hopc⟩)

/-- Ending a command changes STATUS alone. -/
theorem onlyStatusChanged_finish (s : State) (c : StatusCode) : OnlyStatusChanged s (s.finish c) := rfl

/-- Ending a command clears BUSY and the pending command. -/
theorem ended_finish (s : State) (c : StatusCode) : Ended c (s.finish c) := ⟨rfl, rfl, rfl⟩

/-- Settles O4: the decoder rejects an illegal word, and the Engine ends a rejected word with IllegalCommand. -/
theorem illegalCommandWordRaisesCodeEight : Obligations.IllegalCommandWordRaisesCodeEight := by
  intro s w hpending hturn hillegal
  obtain ⟨e, herror⟩ := decode_error_of_illegal hillegal
  have hstep : step s = .next (s.finish .illegalCommand) :=
    (step_engine hpending hturn).trans (engineStep_of_error herror s)
  exact ⟨_, hstep, ended_finish s _, rfl, onlyStatusChanged_finish s _⟩

end Sys2Proof.Machine
end

section
/-! PRINTINFO, SAVE's length check, and ALLOC: its checks and the blank image it makes (40_codec.md R128, R133, R134,
R138). -/

namespace Sys2Proof.Machine

/-- Ending a command with a status code is all that happened. -/
theorem ended_of_exec_eq_finish {i : Instr} {s : State} {c : StatusCode} (h : exec i s = .next (s.finish c)) :
    ∃ t, exec i s = .next t ∧ Ended c t ∧ OnlyStatusChanged s t :=
  ⟨_, h, ended_finish s c, onlyStatusChanged_finish s c⟩

/-- Settles O36: the check for a held image is the whole command. -/
theorem printInfoOnlyReportsWhetherAnImageIsHeld : Obligations.PrintInfoOnlyReportsWhetherAnImageIsHeld := by
  refine fun s => ⟨_, execPrintInfo_eq s, onlyStatusChanged_finish s _, fun himg => ?_, fun himg => ?_⟩
  · rw [if_neg (by simp [himg])]
    exact ended_finish s .ok
  · rw [if_pos himg]
    exact ended_finish s .invalidParameterError

/-- SAVE of an image whose file is too long (40_codec.md R128). -/
theorem exec_save_of_too_long {s : State} (himg : s.img = true) (hlong : s.savedLength > s.params.fbufBytes.toNat) :
    exec .save s = .next (s.finish .ioError) := by
  refine (execSave_eq s).trans (congrArg _ ?_)
  rw [if_neg (by simp [himg]), if_pos ((saveFileSize_eq_savedLength s).symm ▸ hlong)]

/-- SAVE of an image whose file fits FBUF (40_codec.md R126). -/
theorem exec_save_of_fits {s : State} (himg : s.img = true) (hfits : s.savedLength ≤ s.params.fbufBytes.toNat) :
    exec .save s = .next (s.saveCommit.finish .ok) := by
  refine (execSave_eq s).trans (congrArg _ ?_)
  rw [if_neg (by simp [himg]), if_neg (Nat.not_lt.2 ((saveFileSize_eq_savedLength s).trans_le hfits))]

/-- Settles O31: the length check fails after the check for a held image passed. -/
theorem saveThatDoesNotFitRaisesIOError : Obligations.SaveThatDoesNotFitRaisesIOError := by
  intro s himg hlong
  exact ⟨_, exec_save_of_too_long himg hlong, ended_finish s _, rfl, onlyStatusChanged_finish s _⟩

/-- ALLOC ends with the status its checks give, unless they give OK. -/
theorem exec_alloc_of_status {s : State} {c : StatusCode} (h : s.allocStatus = c) (hc : c ≠ .ok) :
    exec .alloc s = .next (s.finish c) := by
  refine (execAlloc_eq s).trans (congrArg _ ?_)
  rw [h, if_neg hc]

/-- Settles O34: each clause fixes which of the three checks fails first. -/
theorem allocChecksAreMadeInOrder : Obligations.AllocChecksAreMadeInOrder := by
  intro s w h bpp
  refine ⟨fun hgeometry => ?_, fun hw hh h8 h24 => ?_, fun hw hh hdepth hcap => ?_⟩
  · have hstatus : s.allocStatus = .invalidParameterError := if_pos hgeometry
    exact ended_of_exec_eq_finish (exec_alloc_of_status hstatus (by decide))
  · have hgeometry : ¬(w ≤ 0 ∨ h ≤ 0) := by omega
    have hstatus : s.allocStatus = .unsupportedFormatError := (if_neg hgeometry).trans (if_pos ⟨h8, h24⟩)
    exact ended_of_exec_eq_finish (exec_alloc_of_status hstatus (by decide))
  · have hgeometry : ¬(w ≤ 0 ∨ h ≤ 0) := by omega
    have hknown : ¬(bpp ≠ 8 ∧ bpp ≠ 24) := by omega
    have hstatus : s.allocStatus = .capacityError :=
      (if_neg hgeometry).trans ((if_neg hknown).trans (if_pos hcap))
    exact ended_of_exec_eq_finish (exec_alloc_of_status hstatus (by decide))

/-! ### ALLOC of legal operands -/

/-- ALLOC of legal operands (40_codec.md R134). -/
theorem exec_alloc_of_ok {s : State} (hok : AllocOk s) : exec .alloc s = .next (s.allocCommit.finish .ok) :=
  (execAlloc_eq s).trans (congrArg _ (if_pos ((allocStatus_eq_ok_iff s).2 hok)))

/-- A colour byte of entry i of the grey ramp is i (40_codec.md R134). -/
theorem greyRamp_colour (i : ℕ) {j : ℕ} (hj : j < 3) : greyRamp (4 * i + j) = BitVec.ofNat 8 i := by
  rw [greyRamp, if_neg (by omega), show (4 * i + j) / 4 = i by omega]

/-- The fourth byte of an entry of the grey ramp is 0 (40_codec.md R134). -/
theorem greyRamp_reserved (i : ℕ) : greyRamp (4 * i + 3) = 0 := if_pos (by omega)

/-- ALLOC leaves the grey ramp in PAL (40_codec.md R134). -/
theorem allocCommit_palByte_entry (s : State) {i : ℕ} (hi : i < 256) :
    s.allocCommit.palByte (4 * i) = BitVec.ofNat 8 i ∧ s.allocCommit.palByte (4 * i + 1) = BitVec.ofNat 8 i ∧
      s.allocCommit.palByte (4 * i + 2) = BitVec.ofNat 8 i ∧ s.allocCommit.palByte (4 * i + 3) = 0 := by
  have hramp : ∀ a, a < 1024 → s.allocCommit.palByte a = greyRamp a := fun a ha =>
    (s.allocCommit_palByte a).trans (if_pos ha)
  exact ⟨(hramp _ (by omega)).trans (greyRamp_colour i (j := 0) (by decide)),
    (hramp _ (by omega)).trans (greyRamp_colour i (by decide)),
    (hramp _ (by omega)).trans (greyRamp_colour i (by decide)), (hramp _ (by omega)).trans (greyRamp_reserved i)⟩

/-- Settles O35: the operands pass the three checks, and each clause reads one memory or register of the commit. -/
theorem allocMakesABlankImage : Obligations.AllocMakesABlankImage := by
  intro s hw hh hbpp hcap
  have hdepth : s.allocDepth = 8 ∨ s.allocDepth = 24 := hbpp.imp (congrArg BitVec.toNat) (congrArg BitVec.toNat)
  have hok : AllocOk s := ⟨hw, hh, hdepth, hcap⟩
  have heffect : CommandEffect .alloc s (s.allocCommit.finish .ok) := .alloc hok
  have hbyte : ∀ a, a < s.allocCommit.imageArea → s.allocCommit.gridByte a = 0 := fun a ha =>
    (s.allocCommit_gridByte a).trans (if_pos (allocCommit_imageArea hok ▸ ha))
  obtain ⟨hfbuf, hflen⟩ := heffect.sameFile (by decide)
  exact ⟨_, exec_alloc_of_ok hok, ended_finish _ .ok, rfl, BitVec.ofInt_toInt, BitVec.ofInt_toInt,
    (allocCommit_dims hok).2.2, hbyte, fun _ => heffect.gridByte_of_imageArea_le,
    fun a ha => (s.allocCommit_hblobByte a).trans (if_pos ha),
    fun a ha => (s.allocCommit_hblobByte a).trans (if_neg (Nat.not_lt.2 ha)),
    fun _ => allocCommit_palByte_entry s,
    fun a ha => (s.allocCommit_palByte a).trans (if_neg (Nat.not_lt.2 ha)),
    hfbuf, heffect.sameKmem, hflen, heffect.sameHostRegisters, rfl, rfl, rfl, rfl⟩

end Sys2Proof.Machine
end

section
/-! LOAD (40_codec.md): the first check that fails decides its status (R111, R112), and the pixels it stores (R119, R120). -/

namespace Sys2Proof.Machine

/-! ### The first check that fails -/

/-- The status an ordered list of checks gives: that of the first check that fails, and OK when none does
(40_codec.md R112). A check fails when its condition holds. -/
inductive ChecksGive : List (Prop × StatusCode) → StatusCode → Prop
  /-- No check is left. -/
  | allPass : ChecksGive [] .ok
  /-- The first check fails. -/
  | fails {p : Prop} {c : StatusCode} {rest : List (Prop × StatusCode)} : p → ChecksGive ((p, c) :: rest) c
  /-- The first check passes, and the others decide. -/
  | passes {p : Prop} {c d : StatusCode} {rest : List (Prop × StatusCode)} :
      ¬ p → ChecksGive rest d → ChecksGive ((p, c) :: rest) d

namespace ChecksGive

/-- One test of a machine that makes a check: it may read the check's condition in terms of its own, and it makes the others
only when this one passes. -/
theorem ite {p q : Prop} [Decidable q] {c d : StatusCode} {rest : List (Prop × StatusCode)} (h : p ↔ q)
    (hrest : ¬ p → ChecksGive rest d) : ChecksGive ((p, c) :: rest) (if q then c else d) := by
  split
  next hq => exact .fails (h.2 hq)
  next hq => exact .passes (mt h.1 hq) (hrest (mt h.1 hq))

/-- A check that fails after none has failed gives the status. -/
theorem eq_of_first {checks : List (Prop × StatusCode)} {c : StatusCode} (h : ChecksGive checks c) {k : ℕ}
    {d : Prop × StatusCode} (hk : checks[k]? = some d) (hd : d.1)
    (hfirst : ∀ (j : ℕ) (e : Prop × StatusCode), j < k → checks[j]? = some e → ¬ e.1) : c = d.2 := by
  induction h generalizing k with
  | allPass => simp at hk
  | fails hp =>
    cases k with
    | zero => exact congrArg Prod.snd (Option.some.inj hk)
    | succ k => exact absurd hp (hfirst 0 _ (by omega) rfl)
  | passes hp _ ih =>
    cases k with
    | zero => exact absurd ((congrArg Prod.fst (Option.some.inj hk)).mpr hd) hp
    | succ k => exact ih hk fun j e hj => hfirst (j + 1) e (by omega)

/-- When every check passes the status is OK. -/
theorem eq_ok {checks : List (Prop × StatusCode)} {c : StatusCode} (h : ChecksGive checks c)
    (hall : ∀ d ∈ checks, ¬ d.1) : c = .ok := by
  induction h with
  | allPass => rfl
  | fails hp => exact absurd hp (hall _ List.mem_cons_self)
  | passes _ _ ih => exact ih fun d hd => hall d (List.mem_cons_of_mem _ hd)

end ChecksGive

/-! ### The checks of LOAD -/

/-- The byte length of a stored row, over the integers (30_encoding.md R96). -/
theorem stride24_toNat {w : ℤ} (h : 0 ≤ w) : (stride24 w.toNat : ℤ) = 3 * w + (4 - 3 * w % 4) % 4 := by
  unfold stride24 rowPad
  omega

/-- MAGIC is not "BM" when either byte differs (30_encoding.md R92). -/
theorem fileMagicOk_eq_false_iff (s : State) :
    s.fileMagicOk = false ↔ s.fbufByte 0 ≠ 0x42 ∨ s.fbufByte 1 ≠ 0x4D := by
  simp [State.fileMagicOk, imp_iff_not_or]

/-- The least data offset, over the integers (40_codec.md R110). -/
theorem minOffset_cast (bpp : ℕ) : (minOffset bpp : ℤ) = if bpp = 24 then 54 else 1078 := by
  unfold minOffset
  split <;> rfl

/-- The byte count of an 8-bit file, tested over the integers (40_codec.md R117). -/
theorem fileByteCount_eq (s : State) :
    s.fileByteCount = if (s.fileImageSize : ℤ) = 0 then s.fileWidth * s.fileHeight else s.fileImageSize := by
  simp [State.fileByteCount]

/-- The length a file must have, with the row length over the integers (40_codec.md R118). -/
theorem fileNeed_eq {s : State} (hw : 0 ≤ s.fileWidth) :
    s.fileNeed = if s.fileDepth = 24 then
        s.fileDataOffset + (3 * s.fileWidth + (4 - 3 * s.fileWidth % 4) % 4) * s.fileHeight
      else s.fileDataOffset + s.fileByteCount := by
  rw [State.fileNeed, stride24_toNat hw]

/-- LOAD's status is the one its eleven checks give (40_codec.md R111). The length check reads the width only when the size
check has found it positive. -/
theorem loadStatus_checks (s : State) : ChecksGive s.loadChecks s.loadStatus := by
  unfold State.loadStatus
  refine .ite Nat.cast_lt fun _ => ?_
  refine .ite (Nat.cast_lt (n := 54)) fun _ => ?_
  refine .ite (fileMagicOk_eq_false_iff s).symm fun _ => ?_
  refine .ite Iff.rfl fun _ => ?_
  refine .ite Iff.rfl fun _ => ?_
  refine .ite (and_congr_right' (Nat.cast_lt (n := 1078))) fun _ => ?_
  refine .ite Iff.rfl fun hsize => ?_
  refine .ite Iff.rfl fun _ => ?_
  refine .ite (by rw [← minOffset_cast]; exact Nat.cast_lt) fun _ => ?_
  refine .ite (by rw [fileByteCount_eq]; rfl) fun _ => ?_
  refine .ite (by rw [fileNeed_eq (by unfold State.fileWidth; omega), fileByteCount_eq]; rfl) fun _ => ?_
  exact .allPass

/-- No check of LOAD raises OK. -/
theorem loadChecks_status_ne_ok {s : State} {c : Prop × StatusCode} (hc : c ∈ s.loadChecks) : c.2 ≠ .ok := by
  have hall : ∀ d ∈ s.loadChecks.map Prod.snd, d ≠ .ok := by
    show ∀ d ∈ [StatusCode.ioError, .truncatedFileError, .formatError, .unsupportedFormatError, .unsupportedFormatError,
      .truncatedFileError, .unsupportedFormatError, .capacityError, .formatError, .unsupportedFormatError,
      .truncatedFileError], d ≠ .ok
    decide
  exact hall _ (List.mem_map_of_mem hc)

/-- LOAD ends with the status its checks give, unless they give OK. -/
theorem exec_load_of_status {s : State} {c : StatusCode} (h : s.loadStatus = c) (hc : c ≠ .ok) :
    exec .load s = .next (s.finish c) := by
  refine (execLoad_eq s).trans (congrArg _ ?_)
  rw [h, if_neg hc]

/-- LOAD of a file that passes every check (40_codec.md R121). -/
theorem exec_load_of_ok {s : State} (hok : LoadOk s) : exec .load s = .next (s.loadCommit.finish .ok) :=
  (execLoad_eq s).trans (congrArg _ (if_pos ((loadStatus_eq_ok_iff s).2 hok)))

/-- A file no check of 40_codec.md R111 rejects passes the machine's checks. -/
theorem State.LoadAccepts.loadOk {s : State} (h : s.LoadAccepts) : LoadOk s :=
  (loadStatus_eq_ok_iff s).1 ((loadStatus_checks s).eq_ok h)

/-- Settles O25: the machine's cascade of tests gives the status of the first check of the list that fails. -/
theorem loadChecksAreMadeInOrder : Obligations.LoadChecksAreMadeInOrder := by
  refine fun s => ⟨fun k c hk hc hfirst => ?_, fun haccepts => ?_⟩
  · have hstatus : s.loadStatus = c.2 := (loadStatus_checks s).eq_of_first hk hc hfirst
    exact ended_of_exec_eq_finish
      (exec_load_of_status hstatus (loadChecks_status_ne_ok (List.mem_of_getElem? hk)))
  · exact ⟨_, exec_load_of_ok haccepts.loadOk, ended_finish _ .ok⟩

/-! ### The pixels LOAD stores -/

/-- The header's width and height as the naturals the image registers take. -/
theorem LoadOk.size_toNat {s : State} (h : LoadOk s) :
    sle32 s.fbufByte 18 = s.fileWidth.toNat ∧ sle32 s.fbufByte 22 = s.fileHeight.toNat :=
  ⟨(Int.toNat_of_nonneg h.w.le).symm, (Int.toNat_of_nonneg h.h.le).symm⟩

/-- The file address of a channel: stored row st, position x, blue first (40_codec.md R119). -/
theorem fileAddr24_pixel (off : ℕ) {w h st x ch : ℕ} (hst : st < h) (hx : x < w) (hch : ch < 3) :
    fileAddr24 off w h (3 * ((h - 1 - st) * w + x) + ch) = off + st * stride24 w + 3 * x + (2 - ch) := by
  obtain ⟨hrow, hcol, hchannel⟩ := linearIndex_divMod 3 w x (h - 1 - st) ch hx hch
  rw [fileAddr24, hrow, hcol, hchannel, show h - 1 - (h - 1 - st) = st by omega]

/-- Stored row st of a 24-bit file becomes grid row h − 1 − st, its bytes in the order blue, green, red (40_codec.md R119). -/
theorem loadCommit_pixel_24 {s : State} (hok : LoadOk s) (hdepth : s.fileDepth = 24) {st x ch : ℕ}
    (hst : st < s.fileHeight.toNat) (hx : x < s.fileWidth.toNat) (hch : ch < 3) :
    s.loadCommit.pixel (s.fileHeight.toNat - 1 - st) x ch =
      s.fbufByte (s.fileDataOffset + st * stride24 s.fileWidth.toNat + 3 * x + (2 - ch)) := by
  have hinside : (s.fileHeight.toNat - 1 - st) * s.fileWidth.toNat + x < s.fileWidth.toNat * s.fileHeight.toNat :=
    linearIndex_lt hx (by omega)
  rw [State.pixel, State.pixelAddr, loadCommit_channels hok, (loadCommit_dims hok).1, if_pos hdepth,
    State.loadCommit_gridByte, State.loadArea, if_pos hdepth, if_pos (by omega), State.loadPixelByte, if_pos hdepth,
    fileAddr24_pixel _ hst hx hch]

/-- An 8-bit file is stored flat (40_codec.md R120). -/
theorem loadCommit_gridByte_8 {s : State} (hdepth : s.fileDepth = 8) {k : ℕ}
    (hk : k < s.fileWidth.toNat * s.fileHeight.toNat) :
    s.loadCommit.gridByte k = s.fbufByte (s.fileDataOffset + k) := by
  rw [State.loadCommit_gridByte, State.loadArea, State.loadPixelByte, hdepth]
  simp [hk]

/-- LOAD keeps GRIDMEM outside the image area of the file (10_state.md R38). -/
theorem loadCommit_gridByte_outside (s : State) {a : ℕ} (ha : s.loadArea ≤ a) : s.loadCommit.gridByte a = s.gridByte a :=
  (s.loadCommit_gridByte a).trans (if_neg (Nat.not_lt.2 ha))

/-- LOAD copies the 54 header bytes to HBLOB (40_codec.md R121). -/
theorem loadCommit_hblobByte_header (s : State) {a : ℕ} (ha : a < 54) : s.loadCommit.hblobByte a = s.fbufByte a :=
  (s.loadCommit_hblobByte a).trans (if_pos ha)

theorem loadCommit_hblobByte_outside (s : State) {a : ℕ} (ha : 54 ≤ a) : s.loadCommit.hblobByte a = s.hblobByte a :=
  (s.loadCommit_hblobByte a).trans (if_neg (Nat.not_lt.2 ha))

/-- Settles O26: the commit of an accepted 24-bit file, read byte by byte. -/
theorem loadStreamsA24BitFile : Obligations.LoadStreamsA24BitFile := by
  intro s haccepts hdepth
  have hok := haccepts.loadOk
  have heffect : CommandEffect .load s (s.loadCommit.finish .ok) := .load hok
  have hbpp : s.loadCommit.imgBpp = 24 := congrArg (BitVec.ofNat 32) hdepth
  have harea : s.loadArea = 3 * (s.fileWidth.toNat * s.fileHeight.toNat) := by
    rw [State.loadArea, State.fileDepth, hdepth, if_pos rfl, Nat.mul_comm]
  obtain ⟨hwidth, hheight⟩ := hok.size_toNat
  obtain ⟨hw, hh⟩ := loadCommit_dims hok
  obtain ⟨hfbuf, hflen⟩ := heffect.sameFile (by decide)
  refine ⟨_, s.fileWidth.toNat, s.fileHeight.toNat, exec_load_of_ok hok, ended_finish _ .ok, hwidth, hheight, rfl, hw, hh,
    hbpp, fun st x hst hx => ?_, fun a ha => loadCommit_gridByte_outside s (harea.trans_le ha),
    fun _ => loadCommit_hblobByte_header s, fun _ => loadCommit_hblobByte_outside s, heffect.samePal_of_load hbpp,
    hfbuf, heffect.sameKmem, hflen, heffect.sameHostRegisters, rfl, rfl, rfl, rfl⟩
  exact ⟨loadCommit_pixel_24 hok hdepth hst hx (by decide), loadCommit_pixel_24 hok hdepth hst hx (by decide),
    loadCommit_pixel_24 hok hdepth hst hx (by decide)⟩

/-- Settles O27: the commit of an accepted 8-bit file, read byte by byte. -/
theorem loadCopiesAn8BitFileFlat : Obligations.LoadCopiesAn8BitFileFlat := by
  intro s haccepts hdepth
  have hok := haccepts.loadOk
  have heffect : CommandEffect .load s (s.loadCommit.finish .ok) := .load hok
  have hbpp : s.loadCommit.imgBpp = 8 := congrArg (BitVec.ofNat 32) hdepth
  have hne : s.fileDepth ≠ 24 := by rw [State.fileDepth, hdepth]; decide
  have harea : s.loadArea = s.fileWidth.toNat * s.fileHeight.toNat := by
    rw [State.loadArea, if_neg hne, Nat.mul_one]
  obtain ⟨hwidth, hheight⟩ := hok.size_toNat
  obtain ⟨hw, hh⟩ := loadCommit_dims hok
  obtain ⟨hfbuf, hflen⟩ := heffect.sameFile (by decide)
  exact ⟨_, s.fileWidth.toNat, s.fileHeight.toNat, exec_load_of_ok hok, ended_finish _ .ok, hwidth, hheight, rfl, hw, hh,
    hbpp, fun _ => loadCommit_gridByte_8 hdepth, fun a ha => loadCommit_gridByte_outside s (harea.trans_le ha),
    fun a ha => (s.loadCommit_palByte a).trans (if_pos ⟨hne, ha⟩),
    fun a ha => (s.loadCommit_palByte a).trans (if_neg fun h => Nat.not_lt.2 ha h.2),
    fun _ => loadCommit_hblobByte_header s, fun _ => loadCommit_hblobByte_outside s,
    hfbuf, heffect.sameKmem, hflen, heffect.sameHostRegisters, rfl, rfl, rfl, rfl⟩

end Sys2Proof.Machine
end

section
/-! The header SAVE writes (40_codec.md R127): the recomputed fields, read back as little-endian numbers, and the cosmetic bytes
copied from HBLOB. -/

namespace Sys2Proof.Machine

/-- The numeric fields SAVE recomputes, each as its offset, its number of bytes and its value (40_codec.md R127). -/
def State.savedFields (s : State) : List (ℕ × ℕ × ℕ) :=
  [(2, 4, s.saveFileSize), (10, 4, s.saveOffset), (14, 4, 40), (18, 4, s.width), (22, 4, s.height), (26, 2, 1),
   (28, 2, s.imgBpp.toNat), (30, 4, 0), (34, 4, s.saveImageSize)]

/-- Every byte of a recomputed field lies in the header, and holds its digit of the value in base 256. -/
theorem lookup_saveHeader_field {s : State} {a n v : ℕ} (hf : (a, n, v) ∈ s.savedFields) {t : ℕ} (ht : t < n) :
    a + t < 54 ∧ Memory.lookup s.saveHeader (a + t) = some (BitVec.ofNat 8 (v / 256 ^ t)) := by
  simp only [State.savedFields, List.mem_cons, List.not_mem_nil, or_false, Prod.mk.injEq] at hf
  rw [lookup_saveHeader]
  obtain ⟨rfl, rfl, rfl⟩ | ⟨rfl, rfl, rfl⟩ | ⟨rfl, rfl, rfl⟩ | ⟨rfl, rfl, rfl⟩ | ⟨rfl, rfl, rfl⟩ | ⟨rfl, rfl, rfl⟩ |
    ⟨rfl, rfl, rfl⟩ | ⟨rfl, rfl, rfl⟩ | ⟨rfl, rfl, rfl⟩ := hf
  all_goals
    refine ⟨by omega, ?_⟩
    simp (disch := omega) only [if_neg, if_pos, Nat.add_sub_cancel_left]

/-- A recomputed field whose value fits reads back as that value. -/
theorem memRead_savedField {s : State} {a n v : ℕ} (hf : (a, n, v) ∈ s.savedFields) (hv : v < 256 ^ n) :
    memRead s.saveCommit.fbufByte a n = v := by
  have hbytes : ∀ t, t < n → s.saveCommit.fbufByte (a + t) = BitVec.ofNat 8 (v / 256 ^ t) := fun t ht => by
    obtain ⟨hlt, hlookup⟩ := lookup_saveHeader_field hf ht
    rw [saveCommit_header s hlt, hlookup, Option.getD_some]
  rw [memRead_of_bytes n a v hbytes, Nat.mod_eq_of_lt hv]

/-- The file's length is a 32-bit number when the file fits FBUF. -/
theorem saveFileSize_lt {s : State} (hfits : s.savedLength ≤ s.params.fbufBytes.toNat) : s.saveFileSize < 2 ^ 32 :=
  ((saveFileSize_eq_savedLength s).trans_le hfits).trans_lt s.params.fbufBytes.isLt

/-- Every recomputed field of a file that fits FBUF has a value that fits the field. -/
theorem savedFields_fit {s : State} (hdepth : s.imgBpp = 8 ∨ s.imgBpp = 24)
    (hfits : s.savedLength ≤ s.params.fbufBytes.toNat) : ∀ f ∈ s.savedFields, f.2.2 < 256 ^ f.2.1 := by
  have hsize := saveFileSize_lt hfits
  have hparts : s.saveFileSize = s.saveOffset + s.saveImageSize := rfl
  have hbpp : s.imgBpp.toNat < 256 ^ 2 := by rcases hdepth with h | h <;> rw [h] <;> decide
  have hw : s.width < 2 ^ 32 := s.imgW.isLt
  have hh : s.height < 2 ^ 32 := s.imgH.isLt
  simp only [State.savedFields, List.forall_mem_cons, List.not_mem_nil, false_imp_iff, implies_true, and_true]
  omega

/-- The bytes SAVE takes from HBLOB: RESERVED, and XRES to CLR_IMPORTANT (40_codec.md R127). -/
theorem saveCommit_fbufByte_cosmetic (s : State) {a : ℕ} (ha : (6 ≤ a ∧ a < 10) ∨ (38 ≤ a ∧ a < 54)) :
    s.saveCommit.fbufByte a = s.hblobByte a := by
  rw [saveCommit_header s (by omega), lookup_saveHeader]
  simp (disch := omega) only [if_neg, if_pos, Option.getD_some]

/-- MAGIC is "BM" (40_codec.md R127). -/
theorem saveCommit_fbufByte_magic (s : State) : s.saveCommit.fbufByte 0 = 0x42 ∧ s.saveCommit.fbufByte 1 = 0x4D := by
  rw [saveCommit_header s (by decide), saveCommit_header s (by decide), lookup_saveHeader, lookup_saveHeader]
  exact ⟨rfl, rfl⟩

/-- A held image has one of the two depths (10_state.md R33). -/
theorem State.ImageInv.depth {s : State} (h : s.ImageInv) (himg : s.img = true) : s.imgBpp = 8 ∨ s.imgBpp = 24 := by
  obtain ⟨hno, -⟩ | ⟨-, -, -, -, hdepth⟩ := h
  · simp [himg] at hno
  · exact hdepth

/-- The recomputed fields of a file that fits FBUF read back as their values. -/
theorem saveCommit_fields {s : State} (hdepth : s.imgBpp = 8 ∨ s.imgBpp = 24)
    (hfits : s.savedLength ≤ s.params.fbufBytes.toNat) :
    ∀ f ∈ s.savedFields, memRead s.saveCommit.fbufByte f.1 f.2.1 = f.2.2 :=
  fun f hf => memRead_savedField hf (savedFields_fit hdepth hfits f hf)

/-- Settles O29: the recomputed fields are taken from their list one by one, because each value fits its field. -/
theorem saveRecomputesTheHeader : Obligations.SaveRecomputesTheHeader := by
  intro s hinv himg hfits
  have hfields := saveCommit_fields (hinv.image.depth himg) hfits
  simp only [State.savedFields, List.forall_mem_cons] at hfields
  obtain ⟨hsize, hoffset, hhdrSize, hwidth, hheight, hplanes, hbpp, hcompression, himageSize, -⟩ := hfields
  obtain ⟨hmagic0, hmagic1⟩ := saveCommit_fbufByte_magic s
  have hlength : s.saveFileSize = s.savedLength := saveFileSize_eq_savedLength s
  have hflen : (BitVec.ofNat 32 s.saveFileSize).toNat = s.savedLength := by
    rw [BitVec.toNat_ofNat, Nat.mod_eq_of_lt (saveFileSize_lt hfits), hlength]
  have hsum : le32 s.saveCommit.fbufByte 34 + le32 s.saveCommit.fbufByte 10 = s.savedLength := by
    rw [le32, le32, himageSize, hoffset, Nat.add_comm, ← hlength, State.saveFileSize]
  exact ⟨_, exec_save_of_fits himg hfits, ended_finish _ .ok, hflen, hmagic0, hmagic1, hsize.trans hlength, hoffset,
    hhdrSize, hwidth, hheight, hplanes, hbpp, hcompression, hsum,
    fun _ h6 h10 => saveCommit_fbufByte_cosmetic s (.inl ⟨h6, h10⟩),
    fun _ h38 h54 => saveCommit_fbufByte_cosmetic s (.inr ⟨h38, h54⟩)⟩

end Sys2Proof.Machine
end

section
/-! The point transforms on an image of the wrong depth (41_point_ops.md R156, R162). -/

namespace Sys2Proof.Machine

/-- GRAYSCALE of a held image that is not 24-bit (41_point_ops.md R156). -/
theorem exec_grayscale_of_depth_ne {s : State} (himg : s.img = true) (hdepth : s.imgBpp ≠ 24) :
    exec .grayscale s = .next (s.finish .unsupportedFormatError) := by
  refine (execGrayscale_eq s).trans (congrArg _ ?_)
  rw [if_neg (by simp [himg]), if_pos hdepth]

/-- THRESHOLD of a held image that is not 8-bit (41_point_ops.md R162). -/
theorem exec_threshold_of_depth_ne {s : State} (himg : s.img = true) (hdepth : s.imgBpp ≠ 8) :
    exec .threshold s = .next (s.finish .unsupportedFormatError) := by
  refine (execThreshold_eq s).trans (congrArg _ ?_)
  rw [if_neg (by simp [himg]), if_pos hdepth]

/-- Settles O42: the check for a held image passes, and the depth check after it fails. -/
theorem wrongBitDepthRaisesUnsupportedFormat : Obligations.WrongBitDepthRaisesUnsupportedFormat := by
  refine fun s himg => ⟨fun hdepth => ?_, fun hdepth => ?_⟩
  · exact ⟨_, exec_grayscale_of_depth_ne himg hdepth, ended_finish s _, rfl, onlyStatusChanged_finish s _⟩
  · exact ⟨_, exec_threshold_of_depth_ne himg hdepth, ended_finish s _, rfl, onlyStatusChanged_finish s _⟩

end Sys2Proof.Machine
end

section
/-! CONVOLVE with an illegal kernel (42_convolution.md R171). -/

namespace Sys2Proof.Machine

/-- The four grounds on which a kernel is illegal (42_convolution.md R171). -/
theorem kernelLegal_eq_false_iff (s : State) :
    s.kernelLegal = false ↔
      s.ksize.toInt ≤ 0 ∨ s.ksize.toInt % 2 = 0 ∨ s.ksize.toInt > s.params.kmax.toNat ∨ s.kdiv.toInt ≤ 0 := by
  simp only [State.kernelLegal, Bool.not_eq_false', Bool.or_eq_true, decide_eq_true_eq, or_assoc]
  rfl

/-- CONVOLVE of a held image by an illegal kernel (42_convolution.md R172). -/
theorem exec_convolve_of_illegal {s : State} (himg : s.img = true) (hillegal : s.kernelLegal = false) :
    exec .convolve s = .next (s.finish .invalidKernelError) := by
  refine (execConvolve_eq s).trans (congrArg _ ?_)
  rw [if_neg (by simp [himg]), if_pos hillegal]

/-- Settles O47: the check for a held image passes, and each of the four grounds fails the kernel check after it. -/
theorem illegalKernelRaisesInvalidKernel : Obligations.IllegalKernelRaisesInvalidKernel := by
  intro s himg hgrounds
  have hillegal : s.kernelLegal = false := (kernelLegal_eq_false_iff s).2 hgrounds
  exact ⟨_, exec_convolve_of_illegal himg hillegal, ended_finish s _, rfl, onlyStatusChanged_finish s _⟩

end Sys2Proof.Machine
end

section
/-! The failing command (60_exceptions.md R232, R233): the check for a held image comes first, and a status other than OK leaves
all but STATUS as it was. -/

namespace Sys2Proof.Machine

/-- An effect that ends with a status other than OK is STATUS alone: every commit ends with OK (60_exceptions.md R233). -/
theorem CommandEffect.eq_finish_of_code_ne_ok {i : Instr} {s t : State} (h : CommandEffect i s t) (hcode : t.code ≠ .ok) :
    t = s.finish t.code := by
  cases h with
  | statusOnly => rfl
  | imageArea _ _ hgrid => exact absurd hgrid.ended.1 hcode
  | load | save | alloc => exact absurd (State.finish_code _ _) hcode

/-- Settles O6: of the effects a command can have, only the one that changes STATUS alone ends with a status other than OK. -/
theorem failedCommandChangesOnlyStatus : Obligations.FailedCommandChangesOnlyStatus := by
  intro i s t h hcode
  rw [(effect_of_exec h).eq_finish_of_code_ne_ok hcode]
  exact ⟨onlyStatusChanged_finish s _, rfl⟩

/-- Every command but LOAD and ALLOC is the check for a held image with a body behind it (60_exceptions.md R232). -/
theorem exists_exec_eq_withImage {i : Instr} (hload : i ≠ .load) (halloc : i ≠ .alloc) (s : State) :
    ∃ body, exec i s = withImage s body := by
  cases i with
  | load => exact absurd rfl hload
  | alloc => exact absurd rfl halloc
  | _ => exact ⟨_, rfl⟩

/-- Settles O7: without an image the check ends the command, whatever its body. -/
theorem noImageRaisesInvalidParameter : Obligations.NoImageRaisesInvalidParameter := by
  intro i s hload halloc himg
  obtain ⟨body, hbody⟩ := exists_exec_eq_withImage hload halloc s
  exact ⟨_, hbody.trans (withImage_of_no_img himg body), ended_finish s _, rfl, onlyStatusChanged_finish s _⟩

end Sys2Proof.Machine
end

section
/-! The capability registers (10_state.md R36, 70_reset_and_hazards.md R262) read the parameters, and no step changes those. -/

namespace Sys2Proof.Machine

/-- CAP_GRID_PX, CAP_FBUF and CAP_KMAX read the parameters (10_state.md R36). -/
theorem readUnit_capabilities (s : State) :
    s.readUnit .reg 0x2C = s.params.gridPx ∧ s.readUnit .reg 0x30 = s.params.fbufBytes ∧
      s.readUnit .reg 0x34 = s.params.kmax := ⟨rfl, rfl, rfl⟩

/-- No register write changes the parameters: the capability registers ignore a write (10_state.md R37). -/
@[simp] theorem regWrite_params (s : State) (r : Reg) (v : Word) : (s.regWrite r v).params = s.params := by
  cases r <;> rfl

@[simp] theorem writeUnit_params (s : State) (sp : Space) (a : Nat) (v : Word) :
    (s.writeUnit sp a v).params = s.params := by
  cases sp with
  | reg =>
    unfold State.writeUnit
    cases regAt a with
    | none => rfl
    | some r => exact regWrite_params s r v
  | fbuf | gridmem | pal | hblob | kmem => rfl

/-- No move of the outside world changes the parameters; the reset event keeps them (70_reset_and_hazards.md R262). -/
theorem envMove_params {s t : State} {e : EnvEvent} {rest : List EnvEvent} (h : s.envMove e rest = .next t) :
    t.params = s.params := by
  cases e with
  | reset | wait =>
    cases h
    rfl
  | read sp a size =>
    cases hadm : s.readRefusal sp a size with
    | none =>
      rw [envMove_read_of_admitted hadm] at h
      cases h
      rfl
    | some r =>
      obtain ⟨_, hrefused⟩ := envMove_read_refused (hadm ▸ Option.some_ne_none r) rest
      cases hrefused.symm.trans h
  | write sp a size v =>
    cases hadm : s.writeRefusal sp a size with
    | none =>
      rw [envMove_write_of_admitted hadm] at h
      cases h
      exact writeUnit_params s sp a v
    | some r => cases (envMove_write_of_refused hadm v rest).symm.trans h

/-- No command changes the parameters, and a rejected word changes STATUS alone. -/
theorem engineStep_params {s t : State} {w : Word} (h : engineStep w s = .next t) : t.params = s.params := by
  cases hd : decode w with
  | ok i =>
    rw [engineStep_of_decode hd] at h
    obtain ⟨hparams, -⟩ := (effect_of_exec h).sameHostRegisters
    exact hparams
  | error e =>
    rw [engineStep_of_error hd] at h
    cases h
    rfl

/-- No step changes the parameters, whoever moves (70_reset_and_hazards.md R262). -/
theorem step_params {s t : State} (h : step s = .next t) : t.params = s.params := by
  obtain ⟨_, -, -, hs⟩ | ⟨_, _, -, -, hs⟩ | ⟨-, -, hs⟩ := step_cases s
  · exact engineStep_params (hs.symm.trans h)
  · exact envMove_params (hs.symm.trans h)
  · cases hs.symm.trans h
    rfl

/-- Settles O13: the registers read the parameters, which `resetWith` takes and every step keeps. -/
theorem capabilityRegistersNeverChange : Obligations.CapabilityRegistersNeverChange := by
  refine ⟨fun p => readUnit_capabilities (State.resetWith p), fun s t h => ?_⟩
  obtain ⟨hgrid, hfbuf, hkmax⟩ := readUnit_capabilities s
  rw [hgrid, hfbuf, hkmax, ← step_params h]
  exact readUnit_capabilities t

end Sys2Proof.Machine
end

section
/-! The presets and the user kernel (42_convolution.md R178, 70_reset_and_hazards.md R274): a preset commutes with replacing
KSIZE, KDIV and KMEM. -/

namespace Sys2Proof.Machine

/-- The state with another user kernel in KSIZE, KDIV and KMEM (30_encoding.md R101). -/
def State.withKernel (s : State) (n d : Word) (m : Memory 32) : State := { s with ksize := n, kdiv := d, kmem := m }

section
variable (s : State) (n d : Word) (m : Memory 32)

@[simp] theorem withKernel_img : (s.withKernel n d m).img = s.img := rfl

@[simp] theorem withKernel_gridByte (a : Nat) : (s.withKernel n d m).gridByte a = s.gridByte a := rfl

theorem withKernel_self : s.withKernel s.ksize s.kdiv s.kmem = s := rfl

/-- Ending a command does not depend on the user kernel. -/
theorem withKernel_finish (c : StatusCode) : (s.withKernel n d m).finish c = (s.finish c).withKernel n d m := rfl

/-- CONV takes its kernel as an argument, and reads and writes no user kernel (42_convolution.md R170). -/
theorem withKernel_conv (K : Nat → Nat → Int) (e k : Nat) :
    (s.withKernel n d m).conv K e k = (s.conv K e k).withKernel n d m := rfl

end

/-- A preset under another user kernel ends as before, with that kernel (42_convolution.md R178). -/
theorem preset_withKernel {rows : List Int} {e : Nat} {s t : State} (h : preset rows e s = .next t) (n d : Word)
    (m : Memory 32) : preset rows e (s.withKernel n d m) = .next (t.withKernel n d m) := by
  obtain rfl := Host.Outcome.next.inj ((preset_eq rows e s).symm.trans h)
  rw [preset_eq, withKernel_img, withKernel_finish, withKernel_conv, withKernel_finish]
  split <;> rfl

/-- Each of the five commands is a preset, with weights that no user kernel changes (42_convolution.md R179–R183). -/
theorem exec_preset_withKernel {i : Instr} (hi : i ∈ [Instr.boxBlur, .gaussian, .outline, .emboss, .sharpen])
    {s t : State} (h : exec i s = .next t) (n d : Word) (m : Memory 32) :
    exec i (s.withKernel n d m) = .next (t.withKernel n d m) := by
  fin_cases hi <;> exact preset_withKernel h n d m

/-- A preset leaves the user kernel as it was: replacing it by itself is no change. -/
theorem exec_preset_kernel {i : Instr} (hi : i ∈ [Instr.boxBlur, .gaussian, .outline, .emboss, .sharpen])
    {s t : State} (h : exec i s = .next t) : t.ksize = s.ksize ∧ t.kdiv = s.kdiv ∧ t.kmem = s.kmem := by
  have hself := exec_preset_withKernel hi h s.ksize s.kdiv s.kmem
  rw [withKernel_self] at hself
  have ht : t = t.withKernel s.ksize s.kdiv s.kmem := Host.Outcome.next.inj (h.symm.trans hself)
  rw [ht]
  exact ⟨rfl, rfl, rfl⟩

/-- Settles O50: the second run ends in the first one's state with the other kernel. -/
theorem presetsIgnoreTheUserKernel : Obligations.PresetsIgnoreTheUserKernel := by
  intro s t t' i n d m hi h h'
  obtain rfl : t.withKernel n d m = t' := Host.Outcome.next.inj ((exec_preset_withKernel hi h n d m).symm.trans h')
  obtain ⟨hksize, hkdiv, hkmem⟩ := exec_preset_kernel hi h
  exact ⟨rfl, withKernel_gridByte t n d m, hksize, hkdiv, hkmem, rfl, rfl, rfl⟩

end Sys2Proof.Machine
end

section
/-! The decoder and the encoder (30_encoding.md R81, R84): a command word is determined by its two fields, so that decoding is
the comparison of both with those of the command's own word. -/

namespace Sys2Proof.Machine

/-- RSV and OPC are the whole word (30_encoding.md R80). -/
theorem word_eq_append_fields (w : Word) : w = rsvField w ++ opcField w := by
  unfold rsvField opcField
  ext k hk
  rw [BitVec.getElem_append]
  split
  next => simp [BitVec.getLsbD_eq_getElem hk]
  next hge => simp [Nat.add_sub_cancel' (Nat.not_lt.1 hge), BitVec.getLsbD_eq_getElem hk]

theorem word_eq_of_fields_eq {w v : Word} (hrsv : rsvField w = rsvField v) (hopc : opcField w = opcField v) : w = v := by
  rw [word_eq_append_fields w, word_eq_append_fields v, hrsv, hopc]

/-- Decoding undoes encoding (30_encoding.md R84). -/
theorem decode_encode (i : Instr) : decode (encode i) = .ok i := by
  cases i <;> decide

/-- A word selects a command exactly when both of its fields are those of the command's word (30_encoding.md R84). -/
theorem decode_eq_ok_iff (w : Word) (i : Instr) :
    decode w = .ok i ↔ rsvField w = 0 ∧ opcField w = opcField (encode i) := by
  obtain ⟨hrsv, -⟩ := encode_legal i
  constructor
  · intro h
    rw [eq_encode_of_decode h]
    exact ⟨hrsv, rfl⟩
  · rintro ⟨hw, hopc⟩
    rw [word_eq_of_fields_eq (hw.trans hrsv.symm) hopc]
    exact decode_encode i

/-- Every OPC of the map is that of a command (30_encoding.md R81). -/
theorem exists_opcField_encode {opc : Byte} (h : opc ∈ mappedOpcodes) : ∃ i, opcField (encode i) = opc := by
  have hmap : mappedOpcodes = opcodeTable.map fun row => opcField (encode row.instr) := by decide
  rw [hmap, List.mem_map] at h
  obtain ⟨row, -, hrow⟩ := h
  exact ⟨row.instr, hrow⟩

/-- The decoder rejects exactly the illegal words (30_encoding.md R83). -/
theorem decode_error_iff (w : Word) : (∃ e, decode w = .error e) ↔ rsvField w ≠ 0 ∨ opcField w ∉ mappedOpcodes := by
  refine ⟨?_, decode_error_of_illegal⟩
  rintro ⟨e, he⟩
  by_contra hlegal
  obtain ⟨hrsv, hopc⟩ := not_or.1 hlegal
  obtain ⟨i, hi⟩ := exists_opcField_encode (not_not.1 hopc)
  cases he.symm.trans ((decode_eq_ok_iff w i).2 ⟨not_not.1 hrsv, hi.symm⟩)

/-- Settles O2: both fields decide which command a word selects, and whether it selects one at all. -/
theorem decodingIsTotalAndUnambiguous : Obligations.DecodingIsTotalAndUnambiguous := by
  refine ⟨decode_eq_ok_iff, fun i => ?_, decode_error_iff, fun row hrow => opcodeTable_row hrow⟩
  obtain ⟨hrsv, hopc⟩ := encode_legal i
  exact ⟨hrsv, hopc, decode_encode i⟩

/-- Settles O1: each word is that of its command, and each of the seven others is illegal. -/
theorem commandWordsWrittenOutDecode : Obligations.CommandWordsWrittenOutDecode := by
  refine ⟨decode_encode .load, decode_encode .save, decode_encode .alloc, decode_encode .printInfo,
    decode_encode .negative, decode_encode .grayscale, decode_encode .brightness, decode_encode .threshold,
    decode_encode .convolve, decode_encode .boxBlur, decode_encode .gaussian, decode_encode .outline,
    decode_encode .emboss, decode_encode .sharpen, decode_encode .equalize, fun w hw i hi => ?_⟩
  have hillegal : rsvField w ≠ 0 ∨ opcField w ∉ mappedOpcodes := by
    fin_cases hw <;> decide
  obtain ⟨e, he⟩ := decode_error_of_illegal hillegal
  cases he.symm.trans hi

end Sys2Proof.Machine
end

section
/-! The image commands (20_memory.md R67): each, when its checks pass, is one update of the image area, and otherwise ends with
a status alone. -/

namespace Sys2Proof.Machine

/-! ### What each command makes of an image that passes its checks -/

section
variable {s : State} (himg : s.img = true)
include himg

theorem exec_negative_of_img :
    exec .negative s =
      .next ((s.setGrid s.imageArea (fun a => byteOf (255 - (s.gridByte a).toNat))).finish .ok) :=
  withImage_of_img himg _

theorem exec_grayscale_of_24 (hdepth : s.imgBpp = 24) :
    exec .grayscale s = .next ((s.setGrid s.imageArea (fun a => byteOf (s.greyOf (a / 3)))).finish .ok) := by
  rw [imageArea_of_24 hdepth]
  exact (withImage_of_img himg _).trans (if_neg (not_not.2 hdepth))

theorem exec_brightness_of_img :
    exec .brightness s =
      .next ((s.setGrid s.imageArea (fun a => byteOf (clamp ((s.gridByte a).toNat + s.delta) 0 255))).finish .ok) :=
  withImage_of_img himg _

theorem exec_threshold_of_8 (hdepth : s.imgBpp = 8) :
    exec .threshold s =
      .next ((s.setGrid s.imageArea (fun a => if ((s.gridByte a).toNat : Int) ≥ s.cut then 255 else 0)).finish .ok) := by
  rw [imageArea_of_8 hdepth]
  exact (withImage_of_img himg _).trans (if_neg (not_not.2 hdepth))

theorem exec_convolve_of_legal (hlegal : s.kernelLegal ≠ false) :
    exec .convolve s =
      .next ((s.conv (s.kernelNumerator s.kernelSide.toNat) s.kernelDivisor.toNat s.kernelSide.toNat).finish .ok) :=
  (withImage_of_img himg _).trans (if_neg hlegal)

theorem preset_of_img (rows : List Int) (d : Nat) : preset rows d s = .next ((s.conv (matrix3 rows) d 3).finish .ok) :=
  withImage_of_img himg _

theorem exec_equalize_of_img : exec .equalize s = .next (s.equalizeCommit.finish .ok) := withImage_of_img himg _

end

/-! ### The update of the image area -/

/-- The image area updated byte by byte; the scratch memories hold new draws (42_convolution.md R175, log 5). -/
def State.updateImage (s : State) (f : Nat → Byte) (scr eq : Nat) : State :=
  { s.setGrid s.imageArea f with scrDraws := scr, eqDraws := eq }

/-- Either path of EQUALIZE is an update of the image area (43_equalize.md R200). -/
theorem equalizeCommit_eq_updateImage (s : State) :
    ∃ f, s.equalizeCommit = s.updateImage f s.scrDraws (s.eqDraws + 1) := by
  unfold State.equalizeCommit State.updateImage
  split
  next h => rw [imageArea_of_8 h]; exact ⟨_, rfl⟩
  next h => rw [imageArea_of_ne_8 h]; exact ⟨_, rfl⟩

/-- A legal kernel is one with none of the grounds of 42_convolution.md R171. -/
theorem kernelLegal_of_ready {s : State} (h : ImageCommandReady .convolve s) : s.kernelLegal ≠ false := by
  obtain ⟨-, hpos, hodd, hmax, hdiv⟩ := h
  rw [ne_eq, kernelLegal_eq_false_iff]
  omega

/-- An image command whose checks pass updates the image area and ends with OK (20_memory.md R67). -/
theorem exec_of_ready {i : Instr} {s : State} (h : ImageCommandReady i s) :
    ∃ f scr eq, exec i s = .next ((s.updateImage f scr eq).finish .ok) := by
  have ⟨himg, hchecks⟩ := h
  cases i with
  | negative => exact ⟨_, _, _, exec_negative_of_img himg⟩
  | grayscale => exact ⟨_, _, _, exec_grayscale_of_24 himg hchecks⟩
  | brightness => exact ⟨_, _, _, exec_brightness_of_img himg⟩
  | threshold => exact ⟨_, _, _, exec_threshold_of_8 himg hchecks⟩
  | convolve => exact ⟨_, _, _, exec_convolve_of_legal himg (kernelLegal_of_ready h)⟩
  | boxBlur | gaussian | outline | emboss | sharpen => exact ⟨_, _, _, preset_of_img himg _ _⟩
  | equalize =>
    obtain ⟨f, hf⟩ := equalizeCommit_eq_updateImage s
    exact ⟨f, _, _, hf ▸ exec_equalize_of_img himg⟩
  | load | save | alloc | printInfo => exact hchecks.elim

/-- An image command whose checks do not all pass ends with a status alone (60_exceptions.md R231, R232). -/
theorem exec_of_not_ready {i : Instr} {s : State} (hi : i ∉ [Instr.load, .save, .alloc, .printInfo])
    (h : ¬ ImageCommandReady i s) : ∃ c, exec i s = .next (s.finish c) := by
  cases himg : s.img with
  | false =>
    obtain ⟨body, hbody⟩ := exists_exec_eq_withImage (i := i) (by rintro rfl; simp at hi) (by rintro rfl; simp at hi) s
    exact ⟨_, hbody.trans (withImage_of_no_img himg body)⟩
  | true =>
    have hchecks := fun hc => h ⟨himg, hc⟩
    cases i with
    | grayscale => exact ⟨_, exec_grayscale_of_depth_ne himg hchecks⟩
    | threshold => exact ⟨_, exec_threshold_of_depth_ne himg hchecks⟩
    | convolve =>
      refine ⟨_, exec_convolve_of_illegal himg ((kernelLegal_eq_false_iff s).2 ?_)⟩
      by_contra hnone
      exact hchecks ⟨by omega, by omega, by omega, by omega⟩
    | load | save | alloc | printInfo => simp at hi
    | negative | brightness | boxBlur | gaussian | outline | emboss | sharpen | equalize => exact (hchecks trivial).elim

/-- Settles O37: the update of the image area has the frame of 20_memory.md R67. -/
theorem imageCommandsCompleteAndWriteOnlyTheImageArea : Obligations.ImageCommandsCompleteAndWriteOnlyTheImageArea := by
  intro i s h
  obtain ⟨f, scr, eq, hexec⟩ := exec_of_ready h
  exact ⟨_, hexec, writesGridBelow_setGrid s s.imageArea f scr eq⟩

end Sys2Proof.Machine
end

section
/-! The invariant (10_state.md R33): it holds after reset, and every step keeps it. -/

namespace Sys2Proof.Machine

/-! ### Memories that are canonical and within their size -/

/-- Canonical and within the size of its space (log 4, 20_memory.md R50). -/
def Memory.Sound {w : Nat} (m : Memory w) (size : Nat) : Prop := Memory.wf m ∧ Memory.within m size

namespace Memory

theorem sound_nil {w : Nat} (size : Nat) : Sound ([] : Memory w) size := ⟨wf_nil, by simp⟩

theorem Sound.fill {w : Nat} {m : Memory w} {size : Nat} (h : Sound m size) {lo n : Nat} (hn : lo + n ≤ size)
    (f : Nat → BitVec w) : Sound (fill m lo n f) size := ⟨wf_fill h.1 lo n f, within_fill h.2 hn f⟩

theorem Sound.write {w : Nat} {m : Memory w} {size : Nat} (h : Sound m size) {a : Nat} (ha : a < size) (v : BitVec w) :
    Sound (write m a v) size := h.fill ha _

/-- A fill unwrites nothing. -/
theorem lookup_fill_ne_none {w : Nat} {m : Memory w} {a : Nat} (h : lookup m a ≠ none) (lo n : Nat) (f : Nat → BitVec w) :
    lookup (fill m lo n f) a ≠ none := by
  rw [lookup_fill]
  split
  next => simp
  next => exact h

theorem lookup_fill_zero_ne_none {w : Nat} (m : Memory w) {a n : Nat} (ha : a < n) (f : Nat → BitVec w) :
    lookup (fill m 0 n f) a ≠ none := by
  simp [lookup_fill, ha]

end Memory

/-- Every memory is canonical and within its size. -/
def State.MemoriesSound (s : State) : Prop :=
  Memory.Sound s.fbuf s.params.fbufBytes.toNat ∧ Memory.Sound s.grid (3 * s.params.gridPx.toNat) ∧
    Memory.Sound s.pal 1024 ∧ Memory.Sound s.hblob 54 ∧
    Memory.Sound s.kmem (s.params.kmax.toNat * s.params.kmax.toNat)

theorem inv_iff (s : State) : s.Inv ↔ s.ImageInv ∧ s.BusyInv ∧ s.MemoriesSound ∧ s.ImageWritten := by
  constructor
  · rintro ⟨himage, hbusy, ⟨cf, cg, cp, ch, ck⟩, ⟨wf, wg, wp, wh, wk⟩, hwritten⟩
    exact ⟨himage, hbusy, ⟨⟨cf, wf⟩, ⟨cg, wg⟩, ⟨cp, wp⟩, ⟨ch, wh⟩, ⟨ck, wk⟩⟩, hwritten⟩
  · rintro ⟨himage, hbusy, ⟨⟨cf, wf⟩, ⟨cg, wg⟩, ⟨cp, wp⟩, ⟨ch, wh⟩, ⟨ck, wk⟩⟩, hwritten⟩
    exact ⟨himage, hbusy, ⟨cf, cg, cp, ch, ck⟩, ⟨wf, wg, wp, wh, wk⟩, hwritten⟩

/-- Right after reset no image is held, nothing is pending and nothing is written (10_state.md R48). -/
theorem inv_resetWith (p : Params) : (State.resetWith p).Inv :=
  (inv_iff _).2 ⟨.inl ⟨rfl, rfl, rfl, rfl⟩, rfl,
    ⟨Memory.sound_nil _, Memory.sound_nil _, Memory.sound_nil _, Memory.sound_nil _, Memory.sound_nil _⟩,
    fun h => Bool.noConfusion h⟩

/-- Settles O11: nothing is held, pending or written after reset, whatever the parameters. -/
theorem invariantHoldsAfterReset : Obligations.InvariantHoldsAfterReset :=
  ⟨inv_resetWith, inv_resetWith Config.params⟩

/-! ### The images LOAD and ALLOC make -/

/-- A positive size whose product over the integers fits is one whose product over the naturals does. -/
theorem toNat_mul_toNat_le {w h : ℤ} {n : ℕ} (hw : 0 < w) (hh : 0 < h) (hcap : w * h ≤ n) : w.toNat * h.toNat ≤ n := by
  zify
  rwa [Int.toNat_of_nonneg hw.le, Int.toNat_of_nonneg hh.le]

/-- LOAD's checks give the image it makes a positive size that fits GRIDMEM and one of the two depths (40_codec.md R111). -/
theorem imageInv_loadCommit {s : State} (hok : LoadOk s) : s.loadCommit.ImageInv := by
  obtain ⟨hw, hh⟩ := loadCommit_dims hok
  have hwpos := hok.w
  have hhpos := hok.h
  refine .inr ⟨rfl, by omega, by omega, ?_, hok.depth.imp (congrArg (BitVec.ofNat 32)) (congrArg (BitVec.ofNat 32))⟩
  rw [hw, hh]
  exact toNat_mul_toNat_le hwpos hhpos hok.cap

/-- ALLOC's checks do the same (40_codec.md R133). -/
theorem imageInv_allocCommit {s : State} (hok : AllocOk s) : s.allocCommit.ImageInv := by
  obtain ⟨hw, hh, -⟩ := allocCommit_dims hok
  have hwpos := hok.w
  have hhpos := hok.h
  refine .inr ⟨rfl, by omega, by omega, ?_, hok.depth.imp (congrArg (BitVec.ofNat 32)) (congrArg (BitVec.ofNat 32))⟩
  rw [hw, hh]
  exact toNat_mul_toNat_le hwpos hhpos hok.cap

/-! ### The Engine's updates -/

section
variable {s : State} (h : s.Inv)
include h

theorem inv_finish (c : StatusCode) : (s.finish c).Inv := by
  obtain ⟨himage, -, hsound, hwritten⟩ := (inv_iff s).1 h
  exact (inv_iff _).2 ⟨himage, rfl, hsound, hwritten⟩

/-- The image area lies inside GRIDMEM, so its update does too. -/
theorem inv_updateImage (himg : s.img = true) (f : Nat → Byte) (scr eq : Nat) : (s.updateImage f scr eq).Inv := by
  obtain ⟨himage, hbusy, ⟨hfbuf, hgrid, hpal, hhblob, hkmem⟩, hwritten⟩ := (inv_iff s).1 h
  obtain ⟨hfits, -⟩ := imageArea_le himage himg
  exact (inv_iff _).2 ⟨himage, hbusy, ⟨hfbuf, hgrid.fill (by omega) f, hpal, hhblob, hkmem⟩,
    fun hi a ha => Memory.lookup_fill_ne_none (hwritten hi a ha) _ _ f⟩

/-- LOAD writes all of the image it makes, inside GRIDMEM (40_codec.md R121). -/
theorem inv_loadCommit (hok : LoadOk s) : s.loadCommit.Inv := by
  obtain ⟨-, hbusy, ⟨hfbuf, hgrid, hpal, hhblob, hkmem⟩, -⟩ := (inv_iff s).1 h
  have harea := loadArea_le hok
  refine (inv_iff _).2 ⟨imageInv_loadCommit hok, hbusy,
    ⟨hfbuf, hgrid.fill (by omega) _, ?_, hhblob.fill (by decide) _, hkmem⟩, fun _ a ha => ?_⟩
  · rw [State.loadCommit_pal]
    split
    next => exact hpal
    next => exact hpal.fill (by decide) _
  · exact Memory.lookup_fill_zero_ne_none _ (loadCommit_imageArea hok ▸ ha) _

/-- ALLOC writes all of the image it makes, inside GRIDMEM (40_codec.md R134). -/
theorem inv_allocCommit (hok : AllocOk s) : s.allocCommit.Inv := by
  obtain ⟨-, hbusy, ⟨hfbuf, hgrid, hpal, hhblob, hkmem⟩, -⟩ := (inv_iff s).1 h
  obtain ⟨hfits, -⟩ := imageArea_le (imageInv_allocCommit hok) rfl
  rw [allocCommit_imageArea hok, State.allocCommit_params] at hfits
  exact (inv_iff _).2 ⟨imageInv_allocCommit hok, hbusy,
    ⟨hfbuf, hgrid.fill (by omega) _, hpal.fill (by decide) _, hhblob.fill (by decide) _, hkmem⟩,
    fun _ a ha => Memory.lookup_fill_zero_ne_none _ (allocCommit_imageArea hok ▸ ha) _⟩

/-- A file that fits FBUF is written inside FBUF (40_codec.md R126). -/
theorem sound_saveFbuf (hdepth : s.imgBpp = 8 ∨ s.imgBpp = 24) (hfits : s.saveFileSize ≤ s.params.fbufBytes.toNat) :
    Memory.Sound s.saveFbuf s.params.fbufBytes.toNat := by
  rw [State.saveFileSize, State.saveOffset, State.saveImageSize] at hfits
  have h54 : 54 ≤ s.params.fbufBytes.toNat := by split at hfits <;> omega
  have hheader : Memory.Sound s.saveHeader s.params.fbufBytes.toNat :=
    ⟨wf_saveHeader h.canonical.fbuf, within_saveHeader h.within.fbuf h54⟩
  unfold State.saveFbuf
  rcases hdepth with h8 | h24
  · rw [if_neg (by simp [h8]), if_neg (by simp [h8])] at hfits
    rw [if_pos h8]
    exact (hheader.fill (by omega) _).fill hfits _
  · rw [if_pos h24, if_pos h24] at hfits
    rw [if_neg (by simp [h24])]
    exact hheader.fill hfits _

theorem inv_saveCommit (himg : s.img = true) (hfits : s.saveFileSize ≤ s.params.fbufBytes.toNat) : s.saveCommit.Inv := by
  have hsaved := sound_saveFbuf h (h.image.depth himg) hfits
  obtain ⟨himage, hbusy, ⟨-, hothers⟩, hwritten⟩ := (inv_iff s).1 h
  exact (inv_iff _).2 ⟨himage, hbusy, ⟨hsaved, hothers⟩, hwritten⟩

/-- Every command keeps the invariant: an image command by its update, the others by their commits. -/
theorem inv_exec {i : Instr} {t : State} (hexec : exec i s = .next t) : t.Inv := by
  cases effect_of_exec hexec with
  | statusOnly => exact inv_finish h _
  | load hok => exact inv_finish (inv_loadCommit h hok) _
  | save himg hfits => exact inv_finish (inv_saveCommit h himg hfits) _
  | alloc hok => exact inv_finish (inv_allocCommit h hok) _
  | imageArea hi himg =>
    by_cases hready : ImageCommandReady i s
    · obtain ⟨f, scr, eq, ht⟩ := exec_of_ready hready
      obtain rfl := Host.Outcome.next.inj (ht.symm.trans hexec)
      exact inv_finish (inv_updateImage h himg f scr eq) _
    · obtain ⟨c, ht⟩ := exec_of_not_ready hi hready
      obtain rfl := Host.Outcome.next.inj (ht.symm.trans hexec)
      exact inv_finish h c

theorem inv_engineStep {w : Word} {t : State} (hstep : engineStep w s = .next t) : t.Inv := by
  cases hd : decode w with
  | ok i => exact inv_exec h ((engineStep_of_decode hd s).symm.trans hstep)
  | error e =>
    obtain rfl := Host.Outcome.next.inj ((engineStep_of_error hd s).symm.trans hstep)
    exact inv_finish h _

/-! ### The outside world's updates -/

/-- What lies outside the block, and the polls, are free (log 1, log 8). -/
theorem inv_outside (env : List EnvEvent) (polls : List Nat) (lastRead : Option Word) :
    State.Inv { s with env := env, polls := polls, lastRead := lastRead } :=
  (inv_iff _).2 ((inv_iff s).1 h)

/-- A register write keeps the invariant: a CMD write sets BUSY and the pending command together (10_state.md R24). -/
theorem inv_regWrite (r : Reg) (v : Word) : (s.regWrite r v).Inv := by
  obtain ⟨himage, hbusy, hsound, hwritten⟩ := (inv_iff s).1 h
  cases r with
  | cmd => exact (inv_iff _).2 ⟨himage, rfl, hsound, hwritten⟩
  | _ => exact (inv_iff _).2 ⟨himage, hbusy, hsound, hwritten⟩

/-- A write inside its space keeps the invariant. -/
theorem inv_writeUnit {sp : Space} {a : Nat} (ha : a < s.spaceSize sp) (v : Word) : (s.writeUnit sp a v).Inv := by
  obtain ⟨himage, hbusy, ⟨hfbuf, hgrid, hpal, hhblob, hkmem⟩, hwritten⟩ := (inv_iff s).1 h
  cases sp with
  | reg =>
    unfold State.writeUnit
    cases regAt a with
    | none => exact h
    | some r => exact inv_regWrite h r v
  | fbuf => exact (inv_iff _).2 ⟨himage, hbusy, ⟨hfbuf.write ha _, hgrid, hpal, hhblob, hkmem⟩, hwritten⟩
  | gridmem =>
    exact (inv_iff _).2 ⟨himage, hbusy, ⟨hfbuf, hgrid.write ha _, hpal, hhblob, hkmem⟩,
      fun hi b hb => Memory.lookup_fill_ne_none (hwritten hi b hb) _ _ _⟩
  | pal => exact (inv_iff _).2 ⟨himage, hbusy, ⟨hfbuf, hgrid, hpal.write ha _, hhblob, hkmem⟩, hwritten⟩
  | hblob => exact h
  | kmem => exact (inv_iff _).2 ⟨himage, hbusy, ⟨hfbuf, hgrid, hpal, hhblob, hkmem.write ha v⟩, hwritten⟩

end

/-- An admitted write falls inside its space (20_memory.md R58). -/
theorem lt_spaceSize_of_writeRefusal {s : State} {sp : Space} {a size : Nat} (h : s.writeRefusal sp a size = none) :
    a < s.spaceSize sp := by
  unfold State.writeRefusal at h
  split at h
  next => cases h
  next =>
    obtain ⟨-, hlt, -⟩ := (addressRefusal_eq_none_iff s sp a size).1 h
    exact Nat.lt_of_not_le hlt

/-- What a move of the outside world answers, if it answers a next state: a reset, a change of what lies outside the block
alone, or an admitted write. -/
theorem envMove_cases {s t : State} {e : EnvEvent} {rest : List EnvEvent} (h : s.envMove e rest = .next t) :
    (e = .reset ∧ t = { s.resetEvent with env := rest }) ∨
    (∃ env polls lastRead, t = { s with env := env, polls := polls, lastRead := lastRead }) ∨
    (∃ sp a size v, e = .write sp a size v ∧ s.writeRefusal sp a size = none ∧
      t = { s.writeUnit sp a v with env := rest }) := by
  cases e with
  | reset => exact .inl ⟨rfl, (Host.Outcome.next.inj h).symm⟩
  | wait => exact .inr (.inl ⟨_, _, _, (Host.Outcome.next.inj h).symm⟩)
  | read sp a size =>
    cases hadm : s.readRefusal sp a size with
    | none => exact .inr (.inl ⟨_, _, _, (Host.Outcome.next.inj ((envMove_read_of_admitted hadm rest).symm.trans h)).symm⟩)
    | some r =>
      obtain ⟨_, hrefused⟩ := envMove_read_refused (hadm ▸ Option.some_ne_none r) rest
      cases hrefused.symm.trans h
  | write sp a size v =>
    cases hadm : s.writeRefusal sp a size with
    | none =>
      exact .inr (.inr ⟨sp, a, size, v, rfl, hadm,
        (Host.Outcome.next.inj ((envMove_write_of_admitted hadm v rest).symm.trans h)).symm⟩)
    | some r => cases (envMove_write_of_refused hadm v rest).symm.trans h

theorem inv_envMove {s t : State} (h : s.Inv) {e : EnvEvent} {rest : List EnvEvent} (hmove : s.envMove e rest = .next t) :
    t.Inv := by
  obtain ⟨-, rfl⟩ | ⟨env, polls, lastRead, rfl⟩ | ⟨sp, a, size, v, -, hadm, rfl⟩ := envMove_cases hmove
  · have hreset := (inv_iff _).1 (inv_resetWith s.params)
    exact (inv_iff _).2 hreset
  · exact inv_outside h env polls lastRead
  · exact inv_outside (inv_writeUnit h (lt_spaceSize_of_writeRefusal hadm) v) rest _ _

/-- Settles O12: whoever moves keeps the invariant, the Engine through the commits of the commands, the outside world through
the writes the port admits. -/
theorem everyStepKeepsTheInvariant : Obligations.EveryStepKeepsTheInvariant := by
  intro s t h hstep
  obtain ⟨w, -, -, hs⟩ | ⟨e, rest, -, -, hs⟩ | ⟨-, -, hs⟩ := step_cases s
  · exact inv_engineStep h (hs.symm.trans hstep)
  · exact inv_envMove h (hs.symm.trans hstep)
  · obtain rfl := Host.Outcome.next.inj (hs.symm.trans hstep)
    exact h

end Sys2Proof.Machine
end

section
/-! The execution model and the host port (70_reset_and_hazards.md, 20_memory.md): whose step it is, what an idle host's access
does, and what the registers read. -/

namespace Sys2Proof.Machine

/-! ### The Engine's step (70_reset_and_hazards.md R267) -/

theorem step_of_pending_command {s : State} {i : Instr} (h : s.pending = some (encode i)) (ht : s.engineTurn = true) :
    step s = exec i s :=
  (step_engine h ht).trans (engineStep_of_decode (decode_encode i) s)

theorem withFetchWord_pending (s : State) (i : Instr) :
    (s.withFetchWord 32 (encode i).toNat).pending = some (encode i) := by
  rw [State.withFetchWord]
  simp [Nat.mod_eq_of_lt (encode i).isLt]

/-- Placing a word leaves no poll before the Engine's step (log 2). -/
theorem withFetchWord_engineTurn (s : State) (nbits w : Nat) : (s.withFetchWord nbits w).engineTurn = true := by
  simp [State.engineTurn, State.withFetchWord]

/-- The placed word of a command is performed by the next step (log 2). -/
theorem step_withFetchWord (s : State) (i : Instr) :
    step (s.withFetchWord 32 (encode i).toNat) = exec i (s.withFetchWord 32 (encode i).toNat) :=
  step_of_pending_command (withFetchWord_pending s i) (withFetchWord_engineTurn s _ _)

/-- Settles O3: on the Engine's turn the step is the Engine's, and it performs the command the word selects. -/
theorem stepPerformsThePendingCommand : Obligations.StepPerformsThePendingCommand :=
  ⟨fun s _ _ hpending hturn hdecode => (step_engine hpending hturn).trans (engineStep_of_decode hdecode s),
    step_withFetchWord⟩

/-- Every effect a command can have ends it (70_reset_and_hazards.md R267(b)). -/
theorem CommandEffect.idle {i : Instr} {s t : State} (h : CommandEffect i s t) : t.busy = false ∧ t.pending = none := by
  cases h with
  | imageArea _ _ hgrid =>
    obtain ⟨-, hidle⟩ := hgrid.ended
    exact hidle
  | _ => exact ⟨rfl, rfl⟩

/-- Settles O5: every command answers a next state with one of the effects, and each effect ends the command. -/
theorem everyCommandEnds : Obligations.EveryCommandEnds := by
  intro i s
  obtain ⟨t, ht, heffect⟩ := exec_effect i s
  exact ⟨t, ht, heffect.idle⟩

/-- Settles O9: no effect writes GRIDMEM at or above the image area it leaves. -/
theorem noCommandWritesOutsideTheImageArea : Obligations.NoCommandWritesOutsideTheImageArea :=
  fun _ _ _ h _ => (effect_of_exec h).gridByte_of_imageArea_le

/-! ### STATUS and the registers after reset -/

/-- A flag as one bit is that flag. -/
@[simp] theorem bitOf_getLsbD_zero (b : Bool) : (bitOf b).getLsbD 0 = b := by cases b <;> rfl

/-- Settles O16: the word is the four fields one above the other, CODE lowest. -/
theorem statusWordLayout : Obligations.StatusWordLayout := by
  refine ⟨fun s => ⟨BitVec.extractLsb'_append_eq_right, ?_, ?_, ?_⟩, rfl⟩
  · exact BitVec.getLsbD_append.trans (BitVec.getLsbD_append.trans (bitOf_getLsbD_zero s.busy))
  · exact BitVec.getLsbD_append.trans
      (BitVec.getLsbD_append.trans (BitVec.getLsbD_append.trans (bitOf_getLsbD_zero s.img)))
  · rw [State.statusWord, BitVec.extractLsb'_append_eq_of_le (by decide), BitVec.extractLsb'_append_eq_of_le (by decide),
      BitVec.extractLsb'_append_eq_of_le (by decide)]
    simp

@[simp] theorem readUnit_reg_offset (s : State) (r : Reg) : s.readUnit .reg r.offset = s.regRead r := by
  simp only [State.readUnit, regAt_offset]

/-- The registers that are not capability registers (10_state.md R23). -/
def Reg.ordinary : List Reg := [.cmd, .status, .arg0, .arg1, .arg2, .flen, .imgW, .imgH, .imgBpp, .ksize, .kdiv]

theorem Reg.ordinary_offsets :
    Reg.ordinary.map Reg.offset = [0x00, 0x04, 0x08, 0x0C, 0x10, 0x14, 0x18, 0x1C, 0x20, 0x24, 0x28] := rfl

/-- A state whose ordinary registers read 0 reads 0 at their offsets. -/
theorem readUnit_ordinary_eq_zero {s : State} (h : ∀ r ∈ Reg.ordinary, s.regRead r = 0) :
    ∀ a ∈ [0x00, 0x04, 0x08, 0x0C, 0x10, 0x14, 0x18, 0x1C, 0x20, 0x24, 0x28], s.readUnit .reg a = 0 := by
  rw [← Reg.ordinary_offsets]
  intro a ha
  obtain ⟨r, hr, rfl⟩ := List.mem_map.1 ha
  exact (readUnit_reg_offset s r).trans (h r hr)

/-- Every register but the capability registers reads 0 after reset (70_reset_and_hazards.md R266). -/
theorem regRead_resetWith (p : Params) : ∀ r ∈ Reg.ordinary, (State.resetWith p).regRead r = 0 := by
  have hstatus : (0 : BitVec 22) ++ bitOf false ++ bitOf false ++ StatusCode.ok.toByte = (0 : Word) := by decide
  simp only [Reg.ordinary, List.forall_mem_cons]
  exact ⟨rfl, hstatus, rfl, rfl, rfl, rfl, rfl, rfl, rfl, rfl, rfl, by simp⟩

/-- Settles O14: the registers read their reset values, and a PRINTINFO finds no image. -/
theorem resetStateReadsAsTheSpecSays : Obligations.ResetStateReadsAsTheSpecSays := by
  intro p
  have hstatus : (0 : BitVec 22) ++ bitOf false ++ bitOf false ++ StatusCode.invalidParameterError.toByte = (6 : Word) := by
    decide
  obtain ⟨hgrid, hfbuf, hkmax⟩ := readUnit_capabilities (State.resetWith p)
  refine ⟨readUnit_ordinary_eq_zero (regRead_resetWith p), hgrid, hfbuf, hkmax, rfl, _,
    (step_withFetchWord _ .printInfo).trans (execPrintInfo_eq _), hstatus⟩

/-- Settles O15: the reset event is `resetWith` of the parameters with one more reset counted. -/
theorem resetEventGivesTheResetState : Obligations.ResetEventGivesTheResetState := by
  intro s rest he turn
  exact ⟨_, step_env turn he, rfl, rfl, rfl, readUnit_ordinary_eq_zero (regRead_resetWith s.params),
    fun a => ⟨rfl, rfl, rfl, rfl, rfl⟩⟩

/-! ### The access of an idle host (20_memory.md R61) -/

/-- An admitted write by the host of an idle block (20_memory.md R61). -/
theorem step_write_of_idle {s : State} {sp : Space} {a size : Nat} {v : Word} {rest : List EnvEvent}
    (hpending : s.pending = none) (hbusy : s.busy = false) (he : s.env = .write sp a size v :: rest)
    (hadm : s.addressRefusal sp a size = none) : step s = .next { s.writeUnit sp a v with env := rest } :=
  (step_env_idle hpending he).trans
    (envMove_write_of_admitted ((writeRefusal_of_not_busy hbusy sp a size).trans hadm) v rest)

/-- An admitted read by the host of an idle block (20_memory.md R61). -/
theorem step_read_of_idle {s : State} {sp : Space} {a size : Nat} {rest : List EnvEvent}
    (hpending : s.pending = none) (hbusy : s.busy = false) (he : s.env = .read sp a size :: rest)
    (hadm : s.addressRefusal sp a size = none) :
    step s = .next { s with lastRead := some (s.readUnit sp a), env := rest } := by
  have hread : s.readRefusal sp a size = none := (if_neg (by simp [hbusy])).trans hadm
  rw [step_env_idle hpending he, envMove_read_of_admitted hread, pollsAfterHostMove_of_idle hpending]

/-- A register write by the host of an idle block (10_state.md R23). -/
theorem step_write_reg_of_idle {s : State} {r : Reg} {v : Word} {rest : List EnvEvent}
    (hpending : s.pending = none) (hbusy : s.busy = false) (he : s.env = .write .reg r.offset 4 v :: rest) :
    step s = .next { s.regWrite r v with env := rest } := by
  rw [step_write_of_idle hpending hbusy he (addressRefusal_reg_offset s r), writeUnit_reg_offset]

/-- Settles O17: CMD is the register at offset 0, and its write issues the command. -/
theorem cmdWriteIssuesOneCommand : Obligations.CmdWriteIssuesOneCommand :=
  fun _ _ _ hpending hbusy he => ⟨_, step_write_reg_of_idle (r := .cmd) hpending hbusy he, rfl, rfl⟩

/-- Settles O20: none of R58's grounds holds, so the read is admitted. -/
theorem hostReadReturnsTheUnitWithoutSideEffect : Obligations.HostReadReturnsTheUnitWithoutSideEffect := by
  intro s sp a size rest hpending hbusy he hunit
  refine step_read_of_idle hpending hbusy he ((addressRefusal_eq_none_iff_not_forbidden s sp a size).2 ?_)
  obtain ⟨rfl, rfl, ha, hlt⟩ | ⟨rfl, rfl, hlt⟩ | ⟨rfl, rfl, hlt⟩ | ⟨rfl, rfl, hlt⟩ | ⟨rfl, rfl, hlt⟩ := hunit
  all_goals
    simp only [State.AccessForbidden, reduceCtorEq, false_and, true_and, false_or, or_false, ne_eq, not_true_eq_false]
    omega

/-- A WAIT that finds BUSY = 0 reads STATUS once and is done (30_encoding.md R85, log 15). -/
theorem step_wait_of_idle {s : State} {rest : List EnvEvent} (hpending : s.pending = none) (hbusy : s.busy = false)
    (he : s.env = .wait :: rest) : step s = .next { s with lastRead := some s.statusWord, env := rest } := by
  rw [step_env_idle hpending he]
  simp [State.envMove, pollsAfterHostMove_of_idle hpending, hbusy]

theorem pollsAfterHostMove_of_pending {s : State} {w : Word} (h : s.pending = some w) :
    s.pollsAfterHostMove = (s.polls.headD 0 - 1) :: s.polls.tail := by
  simp [State.pollsAfterHostMove, h]

/-- Settles O23: with polls left the step is the host's, and neither a read of STATUS nor a WAIT touches the block. -/
theorem busyHostMayPollStatus : Obligations.BusyHostMayPollStatus := by
  refine ⟨fun s w rest hpending hbusy hpolls => ⟨fun he => ?_, fun he => ?_⟩,
    fun s rest hpending hbusy he => step_wait_of_idle hpending hbusy he⟩
  · have hadm : s.readRefusal .reg Reg.status.offset 4 = none :=
      (if_neg (by simp)).trans (addressRefusal_reg_offset s .status)
    rw [step_env_busy hpending he hpolls, ← pollsAfterHostMove_of_pending hpending]
    exact envMove_read_of_admitted hadm rest
  · rw [step_env_busy hpending he hpolls, ← pollsAfterHostMove_of_pending hpending]
    simp [State.envMove, hbusy]

/-! ### A command's host program (30_encoding.md R86) -/

/-- No command changes what the outside world does next. -/
theorem CommandEffect.env_eq {i : Instr} {s t : State} (h : CommandEffect i s t) : t.env = s.env := by
  cases h with
  | imageArea _ _ hgrid =>
    obtain ⟨-, henv, -⟩ := hgrid.outside
    exact henv
  | _ => rfl

/-- A command's program begins with the write of its word to CMD (30_encoding.md R86). -/
theorem hostCommand_env (s : State) (i : Instr) :
    (s.withHostProgram (hostCommand i)).env = [.write .reg Reg.cmd.offset 4 (encode i), .wait] := by
  simp [State.withHostProgram, hostCommand, HostStmt.event]

/-- Settles O24: the host's write issues the command, the Engine performs it, and the host's WAIT finds BUSY = 0. -/
theorem hostCommandRunsTheCommand : Obligations.HostCommandRunsTheCommand := by
  intro s i hpending hbusy hpolls
  have hwrite := step_write_reg_of_idle (s := s.withHostProgram (hostCommand i)) hpending hbusy (hostCommand_env s i)
  obtain ⟨t, ht, heffect⟩ := exec_effect i
    { (s.withHostProgram (hostCommand i)).regWrite .cmd (encode i) with env := [.wait] }
  obtain ⟨hidle, hnone⟩ := heffect.idle
  exact ⟨_, t, hwrite, rfl, rfl, rfl, rfl, rfl, step_of_pending_command rfl (beq_iff_eq.2 hpolls), ht,
    step_wait_of_idle hnone hidle heffect.env_eq⟩

/-! ### What a host access leaves unchanged -/

/-- A host write never changes STATUS.CODE or the image registers, and HBLOB ignores it (10_state.md R26, R28, R31, R32). -/
theorem writeUnit_status_image (s : State) (sp : Space) (a : Nat) (v : Word) :
    (s.writeUnit sp a v).code = s.code ∧ SameImageRegisters s (s.writeUnit sp a v) ∧
      SameMemory .hblob s (s.writeUnit sp a v) := by
  cases sp with
  | reg =>
    unfold State.writeUnit
    cases regAt a with
    | none => exact ⟨rfl, ⟨rfl, rfl, rfl, rfl⟩, fun _ => rfl⟩
    | some r => cases r <;> exact ⟨rfl, ⟨rfl, rfl, rfl, rfl⟩, fun _ => rfl⟩
  | _ => exact ⟨rfl, ⟨rfl, rfl, rfl, rfl⟩, fun _ => rfl⟩

/-- Settles O10: with nothing pending a step is idle or the host's, and no host access changes them. -/
theorem hostAccessNeverChangesStatusOrImageRegisters : Obligations.HostAccessNeverChangesStatusOrImageRegisters := by
  intro s t hpending hnoReset hstep
  obtain ⟨w, hw, -⟩ | ⟨e, rest, he, -, hs⟩ | ⟨-, -, hs⟩ := step_cases s
  · simp [hpending] at hw
  · obtain ⟨rfl, -⟩ | ⟨env, polls, lastRead, rfl⟩ | ⟨sp, a, size, v, -, -, rfl⟩ := envMove_cases (hs.symm.trans hstep)
    · exact absurd he (hnoReset rest)
    · exact ⟨rfl, ⟨rfl, rfl, rfl, rfl⟩, fun _ => rfl⟩
    · exact writeUnit_status_image s sp a v
  · obtain rfl := Host.Outcome.next.inj (hs.symm.trans hstep)
    exact ⟨rfl, ⟨rfl, rfl, rfl, rfl⟩, fun _ => rfl⟩

end Sys2Proof.Machine
end

section
/-! The units an idle host's write sets (10_state.md R29, R30, R34, R35, R43; 20_memory.md R50), and the units it leaves. -/

namespace Sys2Proof.Machine

/-! ### Writing a register -/

/-- The registers whose write sets them and does nothing else (10_state.md R23). -/
def Reg.operands : List Reg := [.arg0, .arg1, .arg2, .flen, .ksize, .kdiv]

theorem Reg.operands_offsets : Reg.operands.map Reg.offset = [0x08, 0x0C, 0x10, 0x14, 0x24, 0x28] := rfl

section
variable {r : Reg} (hr : r ∈ Reg.operands) (s : State) (v : Word)
include hr

/-- The write sets its register and no other (10_state.md R23): one case per register written and register read. -/
theorem regRead_regWrite (r' : Reg) : (s.regWrite r v).regRead r' = if r' = r then v else s.regRead r' := by
  fin_cases hr <;> cases r' <;> rfl

theorem regWrite_pending : (s.regWrite r v).pending = s.pending := by
  fin_cases hr <;> rfl

/-- No memory sees it. -/
theorem sameMemory_regWrite {sp : Space} (hsp : sp ≠ .reg) : SameMemory sp s (s.regWrite r v) := by
  cases sp with
  | reg => exact absurd rfl hsp
  | _ => fin_cases hr <;> exact fun _ => rfl

theorem readUnit_regWrite_other {b : Nat} (hb : b ≠ r.offset) :
    (s.regWrite r v).readUnit .reg b = s.readUnit .reg b := by
  unfold State.readUnit
  cases hat : regAt b with
  | none => rfl
  | some r' =>
    have hoffset := offset_of_regAt_eq_some hat
    exact (regRead_regWrite hr s v r').trans (if_neg fun h => hb (by rw [← hoffset, h]))

end

/-! ### Writing a unit of a memory -/

theorem getD_lookup_write {w : Nat} (m : Memory w) (a b : Nat) (v : BitVec w) (draw : BitVec w) :
    (Memory.lookup (Memory.write m a v) b).getD draw = if b = a then v else (Memory.lookup m b).getD draw := by
  rw [Memory.lookup_write]
  split <;> rfl

/-- The word a unit of a space holds of a word written to it: a byte space takes the low eight bits (log 8). -/
def Space.stored (sp : Space) (v : Word) : Word := if sp = .kmem then v else (v.setWidth 8).setWidth 32

/-- A write to a memory the host may write sets the unit it addresses and no other of the space (20_memory.md R61). -/
theorem readUnit_writeUnit {sp : Space} (hsp : sp ∈ [Space.fbuf, .pal, .kmem]) (s : State) (a : Nat) (v : Word) (b : Nat) :
    (s.writeUnit sp a v).readUnit sp b = if b = a then sp.stored v else s.readUnit sp b := by
  fin_cases hsp
  · exact (congrArg (BitVec.setWidth 32) (getD_lookup_write s.fbuf a b (v.setWidth 8) _)).trans (apply_ite _ _ _ _)
  · exact (congrArg (BitVec.setWidth 32) (getD_lookup_write s.pal a b (v.setWidth 8) _)).trans (apply_ite _ _ _ _)
  · exact getD_lookup_write s.kmem a b v _

/-- A write to a memory leaves every other space as it reads. -/
theorem sameMemory_writeUnit {sp sp' : Space} (hsp : sp ∈ [Space.fbuf, .pal, .kmem]) (hne : sp' ≠ sp) (s : State) (a : Nat)
    (v : Word) : SameMemory sp' s (s.writeUnit sp a v) := by
  fin_cases hsp
  · cases sp' with
    | fbuf => exact absurd rfl hne
    | _ => exact fun _ => rfl
  · cases sp' with
    | pal => exact absurd rfl hne
    | _ => exact fun _ => rfl
  · cases sp' with
    | kmem => exact absurd rfl hne
    | _ => exact fun _ => rfl

/-- Settles O18: the write is admitted, and register by register and memory by memory it sets one unit. -/
theorem hostWriteSetsTheUnit : Obligations.HostWriteSetsTheUnit := by
  constructor
  · intro s a v rest hpending hbusy ha he
    rw [← Reg.operands_offsets] at ha
    obtain ⟨r, hr, rfl⟩ := List.mem_map.1 ha
    have hset : (s.regWrite r v).regRead r = v := (regRead_regWrite hr s v r).trans (if_pos rfl)
    exact ⟨_, step_write_reg_of_idle hpending hbusy he, (readUnit_reg_offset _ r).trans hset,
      fun b hb => readUnit_regWrite_other hr s v hb, (regWrite_pending hr s v).trans hpending,
      fun sp hsp => sameMemory_regWrite hr s v hsp⟩
  · intro s sp a v rest hpending hbusy hunit
    have hwritable : sp ∈ [Space.fbuf, .pal, .kmem] := by
      obtain ⟨rfl, -⟩ | ⟨rfl, -⟩ | ⟨rfl, -⟩ := hunit <;> decide
    have hstep : step s = .next { s.writeUnit sp a v with env := rest } := by
      obtain ⟨rfl, hlt, he⟩ | ⟨rfl, hlt, he⟩ | ⟨rfl, hlt, he⟩ := hunit
      all_goals
        refine step_write_of_idle hpending hbusy he ((addressRefusal_eq_none_iff_not_forbidden s _ a _).2 ?_)
        simpa [State.AccessForbidden] using hlt
    exact ⟨_, hstep, (readUnit_writeUnit hwritable s a v a).trans (if_pos rfl),
      fun b hb => (readUnit_writeUnit hwritable s a v b).trans (if_neg hb),
      fun sp' hne => sameMemory_writeUnit hwritable hne s a v⟩

end Sys2Proof.Machine
end

section
/-! The point transforms (41_point_ops.md): what each makes of a byte of the image, and what a second one makes of it. -/

namespace Sys2Proof.Machine

/-! ### An update of GRIDMEM, read byte by byte -/

theorem gridByte_of_updated {s t : State} {n : Nat} {f : Nat → Byte} (h : t = (s.setGrid n f).finish .ok) {a : Nat}
    (ha : a < n) : t.gridByte a = f a := by
  rw [h]
  exact (State.setGrid_gridByte s n f a).trans (if_pos ha)

/-- A byte is its number. -/
theorem byte_eq_of_toNat {b : Byte} {n : Nat} (h : b.toNat = n) : b = BitVec.ofNat 8 n := by
  rw [← h, BitVec.ofNat_toNat, BitVec.setWidth_eq]

/-! ### NEGATIVE (41_point_ops.md R150, R151) -/

theorem byteOf_negative_toNat (b : Byte) : (byteOf (255 - b.toNat)).toNat = 255 - b.toNat := by
  have hb := b.isLt
  have h := byteOf_toNat (v := 255 - b.toNat) (by omega) (by omega)
  omega

/-- NEGATIVE of a held image: its frame, and every byte of the image area. -/
theorem exec_negative_bytes {s : State} (himg : s.img = true) :
    ∃ t, exec .negative s = .next t ∧ WritesGridBelow s.imageArea s t ∧
      ∀ a, a < s.imageArea → (t.gridByte a).toNat = 255 - (s.gridByte a).toNat := by
  refine ⟨_, exec_negative_of_img himg, writesGridBelow_setGrid s _ _ _ _, fun a ha => ?_⟩
  rw [gridByte_of_updated rfl ha]
  exact byteOf_negative_toNat _

/-- Settles O38: the machine's byte is 255 − v, which fits a byte. -/
theorem negativeInvertsEveryChannelByte : Obligations.NegativeInvertsEveryChannelByte := fun _ => exec_negative_bytes

/-- After an image command an image is still held. -/
theorem WritesGridBelow.img {n : Nat} {s t : State} (h : WritesGridBelow n s t) : t.img = s.img := h.imageRegisters.1

/-- Settles O39: 255 − (255 − v) = v, and 255 − v = v has no solution among the integers. -/
theorem negativeIsInvolutive : Obligations.NegativeIsInvolutive := by
  intro s himg
  obtain ⟨t, ht, htframe, htbyte⟩ := exec_negative_bytes himg
  obtain ⟨u, hu, huframe, hubyte⟩ := exec_negative_bytes (htframe.img.trans himg)
  rw [htframe.imageRegisters.imageArea] at huframe hubyte
  refine ⟨t, u, ht, hu, fun a => ?_, fun a ha => ?_⟩
  · by_cases ha : a < s.imageArea
    · have hv := (s.gridByte a).isLt
      have h1 := htbyte a ha
      have h2 := hubyte a ha
      exact BitVec.eq_of_toNat_eq (by omega)
    · rw [huframe.grid a (by omega), htframe.grid a (by omega)]
  · have h := htbyte a ha
    refine ⟨fun heq => ?_, fun h128 => byte_eq_of_toNat ?_, fun h127 => byte_eq_of_toNat ?_⟩
    · rw [heq] at h
      have hv := (s.gridByte a).isLt
      omega
    · rw [h, h128]; rfl
    · rw [h, h127]; rfl

/-! ### GRAYSCALE (41_point_ops.md R153–R155) -/

/-- The sum of the three channels of 24-bit pixel p. -/
def State.channelSum (s : State) (p : Nat) : Nat :=
  (s.gridByte (3 * p)).toNat + (s.gridByte (3 * p + 1)).toNat + (s.gridByte (3 * p + 2)).toNat

theorem channelSum_le (s : State) (p : Nat) : s.channelSum p ≤ 765 := by
  have h0 := (s.gridByte (3 * p)).isLt
  have h1 := (s.gridByte (3 * p + 1)).isLt
  have h2 := (s.gridByte (3 * p + 2)).isLt
  unfold State.channelSum
  omega

theorem greyOf_eq_clamp (s : State) (p : Nat) : s.greyOf p = clamp (roundDiv (s.channelSum p) 3) 0 255 := by
  unfold State.greyOf State.channelSum
  push_cast
  rfl

/-- The integer form of the rounded third (41_point_ops.md R155). -/
theorem roundDiv_three (n : Nat) : roundDiv n 3 = ((n + 1) / 3 : Nat) := by
  rw [roundDiv_of_nonneg (by omega)]
  omega

theorem greyOf_eq (s : State) (p : Nat) : s.greyOf p = ((s.channelSum p + 1) / 3 : Nat) := by
  have hsum := channelSum_le s p
  rw [greyOf_eq_clamp, clamp_eq_clampByte, roundDiv_three, clampByte]
  omega

theorem byteOf_greyOf_toNat (s : State) (p : Nat) : (byteOf (s.greyOf p)).toNat = (s.channelSum p + 1) / 3 := by
  have hsum := channelSum_le s p
  have h := byteOf_toNat (v := ((s.channelSum p + 1) / 3 : Nat)) (by omega) (by omega)
  rw [greyOf_eq]
  omega

/-- GRAYSCALE of a held 24-bit image: its frame, and every byte of the image area. -/
theorem exec_grayscale_bytes {s : State} (himg : s.img = true) (hdepth : s.imgBpp = 24) :
    ∃ t, exec .grayscale s = .next t ∧ WritesGridBelow s.imageArea s t ∧
      ∀ a, a < s.imageArea → t.gridByte a = byteOf (s.greyOf (a / 3)) :=
  ⟨_, exec_grayscale_of_24 himg hdepth, writesGridBelow_setGrid s _ _ _ _, fun _ ha => gridByte_of_updated rfl ha⟩

/-- A channel of a pixel lies in the image area of a 24-bit image. -/
theorem channel_lt_imageArea {s : State} (hdepth : s.imgBpp = 24) {p ch : Nat} (hp : p < s.pixels) (hch : ch < 3) :
    3 * p + ch < s.imageArea := by
  rw [imageArea_of_24 hdepth]
  omega

/-- Settles O40: the machine's rounded third is R11's, and its integer form is R155's. -/
theorem grayscaleAveragesTheChannels : Obligations.GrayscaleAveragesTheChannels := by
  intro s himg hdepth
  obtain ⟨t, ht, hframe, hbyte⟩ := exec_grayscale_bytes himg hdepth
  refine ⟨t, ht, hframe, fun p ch hp hch => ?_⟩
  rw [hbyte _ (channel_lt_imageArea hdepth hp hch), show (3 * p + ch) / 3 = p by omega]
  refine ⟨?_, byteOf_greyOf_toNat s p⟩
  rw [greyOf_eq_clamp, byteOf_clamp_toNat, roundDiv_eq_ratRound _ (by decide)]
  rfl

/-- A pixel of one grey value averages to that value. -/
theorem byteOf_greyOf_of_equal {s : State} {p : Nat} {b : Byte} (h0 : s.gridByte (3 * p) = b)
    (h1 : s.gridByte (3 * p + 1) = b) (h2 : s.gridByte (3 * p + 2) = b) : byteOf (s.greyOf p) = b := by
  have h := byteOf_greyOf_toNat s p
  rw [State.channelSum, h0, h1, h2] at h
  exact BitVec.eq_of_toNat_eq (by omega)

/-- Settles O41: after the first GRAYSCALE the three channels of a pixel are one byte, whose average it is. -/
theorem secondGrayscaleChangesNothing : Obligations.SecondGrayscaleChangesNothing := by
  intro s himg hdepth
  obtain ⟨t, ht, htframe, htbyte⟩ := exec_grayscale_bytes himg hdepth
  obtain ⟨-, -, -, hbpp⟩ := htframe.imageRegisters
  obtain ⟨u, hu, huframe, hubyte⟩ := exec_grayscale_bytes (htframe.img.trans himg) (hbpp.trans hdepth)
  rw [htframe.imageRegisters.imageArea] at huframe hubyte
  have hgrey : ∀ p ch, p < s.pixels → ch < 3 → t.gridByte (3 * p + ch) = byteOf (s.greyOf p) := fun p ch hp hch => by
    rw [htbyte _ (channel_lt_imageArea hdepth hp hch), show (3 * p + ch) / 3 = p by omega]
  refine ⟨t, u, ht, hu, hbpp.trans hdepth, fun p hp => ?_, fun a => ?_⟩
  · have h0 := hgrey p 0 hp (by decide)
    exact ⟨h0.trans (hgrey p 1 hp (by decide)).symm, h0.trans (hgrey p 2 hp (by decide)).symm⟩
  · by_cases ha : a < s.imageArea
    · have hp : a / 3 < s.pixels := by
        rw [imageArea_of_24 hdepth] at ha
        omega
      rw [hubyte a ha, htbyte a ha]
      exact byteOf_greyOf_of_equal (hgrey _ 0 hp (by decide)) (hgrey _ 1 hp (by decide)) (hgrey _ 2 hp (by decide))
    · exact huframe.grid a (by omega)

/-! ### BRIGHTNESS (41_point_ops.md R157–R159) -/

/-- Settles O43: the machine clamps the exact sum. -/
theorem brightnessSaturates : Obligations.BrightnessSaturates := by
  intro s himg
  refine ⟨_, exec_brightness_of_img himg, writesGridBelow_setGrid s _ _ _ _, fun a ha => ?_⟩
  rw [gridByte_of_updated rfl ha]
  exact byteOf_clamp_toNat _

/-- Settles O44: every byte plus 300 is above 255, and 255 − 300 is below 0. -/
theorem brightnessUpThenDownEndsAtZero : Obligations.BrightnessUpThenDownEndsAtZero := by
  intro s himg
  obtain ⟨t, ht, htframe, htbyte⟩ := brightnessSaturates { s with arg0 := 300 } himg
  obtain ⟨u, hu, -, hubyte⟩ := brightnessSaturates { t with arg0 := -300 } (htframe.img.trans himg)
  have harea : t.imageArea = s.imageArea := htframe.imageRegisters.imageArea
  refine ⟨t, u, ht, hu, fun a ha => ?_⟩
  have h1 : ((t.gridByte a).toNat : ℤ) = clampByte ((s.gridByte a).toNat + 300) := htbyte a ha
  have h2 : ((u.gridByte a).toNat : ℤ) = clampByte ((t.gridByte a).toNat + -300) := hubyte a (ha.trans_eq harea.symm)
  unfold clampByte at h1 h2
  exact ⟨byte_eq_of_toNat (n := 255) (by omega), byte_eq_of_toNat (n := 0) (by omega)⟩

/-! ### THRESHOLD (41_point_ops.md R160, R161) -/

/-- The byte THRESHOLD makes of a byte (41_point_ops.md R160). -/
def thresholdByte (cut : Int) (b : Byte) : Byte := if cut ≤ b.toNat then 255 else 0

/-- THRESHOLD of a held 8-bit image: its frame, and every byte of the image area. -/
theorem exec_threshold_bytes {s : State} (himg : s.img = true) (hdepth : s.imgBpp = 8) :
    ∃ t, exec .threshold s = .next t ∧ WritesGridBelow s.imageArea s t ∧
      ∀ a, a < s.imageArea → t.gridByte a = thresholdByte s.arg0.toInt (s.gridByte a) :=
  ⟨_, exec_threshold_of_8 himg hdepth, writesGridBelow_setGrid s _ _ _ _, fun _ ha => gridByte_of_updated rfl ha⟩

/-- Settles O45: the machine's comparison is that of the integers. -/
theorem thresholdBinarises : Obligations.ThresholdBinarises := by
  intro s himg hdepth
  obtain ⟨t, ht, hframe, hbyte⟩ := exec_threshold_bytes himg hdepth
  exact ⟨t, ht, hframe, fun a ha => ⟨fun hge => (hbyte a ha).trans (if_pos hge),
    fun hlt => (hbyte a ha).trans (if_neg (not_le.2 hlt))⟩⟩

/-- A byte at the cut stays above it as 255, and a byte below it, so that the cut is positive, stays below it as 0
(41_point_ops.md R161). -/
theorem thresholdByte_thresholdByte (cut : Int) (b : Byte) :
    thresholdByte cut (thresholdByte cut b) = thresholdByte cut b := by
  have hb : (b.toNat : Int) ≤ 255 := by have := b.isLt; omega
  have h255 : ((255 : Byte).toNat : Int) = 255 := rfl
  have h0 : ((0 : Byte).toNat : Int) = 0 := rfl
  by_cases hcut : cut ≤ b.toNat
  · rw [thresholdByte.eq_def cut b, if_pos hcut]
    exact if_pos (by omega)
  · rw [thresholdByte.eq_def cut b, if_neg hcut]
    exact if_neg (by omega)

/-- Settles O46: the second THRESHOLD meets bytes a first one made, and each end of the cut decides every comparison. -/
theorem thresholdIsIdempotent : Obligations.ThresholdIsIdempotent := by
  intro s himg hdepth
  obtain ⟨t, ht, htframe, htbyte⟩ := exec_threshold_bytes himg hdepth
  obtain ⟨-, -, -, hbpp⟩ := htframe.imageRegisters
  obtain ⟨-, -, hcut, -⟩ := htframe.hostRegisters
  obtain ⟨u, hu, huframe, hubyte⟩ := exec_threshold_bytes (htframe.img.trans himg) (hbpp.trans hdepth)
  rw [htframe.imageRegisters.imageArea] at huframe hubyte
  rw [hcut] at hubyte
  refine ⟨t, u, ht, hu, fun a => ?_, fun a ha => ⟨fun hlow => ?_, fun hhigh => ?_, fun htop => ?_⟩⟩
  · by_cases ha : a < s.imageArea
    · rw [hubyte a ha, htbyte a ha]
      exact thresholdByte_thresholdByte _ _
    · exact huframe.grid a (by omega)
  · exact (htbyte a ha).trans (if_pos (by omega))
  · have hb := (s.gridByte a).isLt
    exact (htbyte a ha).trans (if_neg (by omega))
  · have h255 : s.arg0.toInt ≤ (s.gridByte a).toNat ↔ s.gridByte a = 255 := by
      have hb := (s.gridByte a).isLt
      rw [htop, ← BitVec.toNat_inj]
      change _ ↔ _ = 255
      omega
    simp only [htbyte a ha, thresholdByte, h255]

end Sys2Proof.Machine
end

section
/-! The codec (40_codec.md): what LOAD reads, what SAVE writes, and that each undoes the other. -/

namespace Sys2Proof.Machine

/-! ### The bytes of the file SAVE writes (40_codec.md R126, R129) -/

/-- A channel of a saved 24-bit image: bottom row first, blue, green, red. -/
theorem saveCommit_channel {s : State} (hdepth : s.imgBpp = 24) {st x j : ℕ} (hst : st < s.height) (hx : x < s.width)
    (hj : j < 3) :
    s.saveCommit.fbufByte (54 + st * stride24 s.width + 3 * x + j) = s.pixel (s.height - 1 - st) x (2 - j) := by
  have hcol : 3 * x + j < stride24 s.width := by unfold stride24; omega
  rw [show 54 + st * stride24 s.width + 3 * x + j = 54 + (st * stride24 s.width + (3 * x + j)) by omega,
    saveCommit_row s hdepth (rowIndex_lt hst hcol), saveRowByte_row s st _ hcol, if_pos (by omega), State.pixel,
    State.pixelAddr, hdepth, show (3 * x + j) / 3 = x by omega, show (3 * x + j) % 3 = j by omega]
  rfl

/-- The padding of a stored row is zero. -/
theorem saveCommit_padding {s : State} (hdepth : s.imgBpp = 24) {st p : ℕ} (hst : st < s.height) (hp : p < rowPad s.width) :
    s.saveCommit.fbufByte (54 + st * stride24 s.width + 3 * s.width + p) = 0 := by
  have hcol : 3 * s.width + p < stride24 s.width := by unfold stride24; omega
  rw [show 54 + st * stride24 s.width + 3 * s.width + p = 54 + (st * stride24 s.width + (3 * s.width + p)) by omega,
    saveCommit_row s hdepth (rowIndex_lt hst hcol), saveRowByte_row s st _ hcol, if_neg (by omega)]

/-- Settles O30: each byte of the file is read from the commit's stored rows, palette, flat run or old FBUF. -/
theorem saveWritesThePixelData : Obligations.SaveWritesThePixelData := by
  intro s hinv himg hfits
  have heffect : CommandEffect .save s (s.saveCommit.finish .ok) :=
    .save himg ((saveFileSize_eq_savedLength s).trans_le hfits)
  obtain ⟨himage, hhblob, hpal⟩ := heffect.sameImage (by decide) (by decide)
  exact ⟨_, exec_save_of_fits himg hfits, ended_finish _ .ok,
    fun h24 st hst => ⟨fun x hx => ⟨saveCommit_channel h24 hst hx (j := 0) (by decide),
      saveCommit_channel h24 hst hx (by decide), saveCommit_channel h24 hst hx (by decide)⟩,
      fun p => saveCommit_padding h24 hst⟩,
    fun h8 => ⟨fun a => saveCommit_palette s h8, fun k => saveCommit_pixel s h8⟩,
    fun a => heffect.save_fbufByte (hinv.image.depth himg), heffect.sameGrid (.inl rfl), hpal, hhblob, heffect.sameKmem,
    himage, heffect.sameHostRegisters, rfl, rfl, rfl, rfl⟩

/-! ### Overwriting a memory twice -/

/-- An update that, at every address, either writes a unit of its own or leaves what is there. -/
def Memory.Overwrites {w : ℕ} (F : Memory w → Memory w) : Prop :=
  ∀ a, (∃ v, ∀ m, lookup (F m) a = some v) ∨ ∀ m, lookup (F m) a = lookup m a

namespace Memory.Overwrites

variable {w : ℕ} {F : Memory w → Memory w}

theorem id : Overwrites (fun m : Memory w => m) := fun _ => .inr fun _ => rfl

theorem fill (h : Overwrites F) (lo n : ℕ) (f : ℕ → BitVec w) : Overwrites (fun m => Memory.fill (F m) lo n f) := by
  intro a
  simp only [lookup_fill]
  split
  next => exact .inl ⟨f (a - lo), fun _ => rfl⟩
  next => exact h a

/-- A second time it changes nothing. -/
theorem lookup_twice (h : Overwrites F) (m : Memory w) (a : ℕ) : lookup (F (F m)) a = lookup (F m) a := by
  obtain ⟨v, hv⟩ | hkeep := h a
  · rw [hv, hv]
  · exact hkeep (F m)

end Memory.Overwrites

/-- The block with other contents of FBUF. -/
def State.withFbuf (s : State) (m : Memory 8) : State := { s with fbuf := m }

section
variable (s : State) (m : Memory 8)

@[simp] theorem withFbuf_fbuf : (s.withFbuf m).fbuf = m := rfl
@[simp] theorem withFbuf_imgBpp : (s.withFbuf m).imgBpp = s.imgBpp := rfl
@[simp] theorem withFbuf_width : (s.withFbuf m).width = s.width := rfl
@[simp] theorem withFbuf_height : (s.withFbuf m).height = s.height := rfl
@[simp] theorem withFbuf_saveOffset : (s.withFbuf m).saveOffset = s.saveOffset := rfl
@[simp] theorem withFbuf_saveImageSize : (s.withFbuf m).saveImageSize = s.saveImageSize := rfl
@[simp] theorem withFbuf_saveFileSize : (s.withFbuf m).saveFileSize = s.saveFileSize := rfl
@[simp] theorem withFbuf_hblobByte : (s.withFbuf m).hblobByte = s.hblobByte := rfl
@[simp] theorem withFbuf_palByte : (s.withFbuf m).palByte = s.palByte := rfl
@[simp] theorem withFbuf_gridByte : (s.withFbuf m).gridByte = s.gridByte := rfl
@[simp] theorem withFbuf_saveRowByte : (s.withFbuf m).saveRowByte = s.saveRowByte := rfl

end

/-- The header is written over whatever FBUF holds (40_codec.md R127). -/
theorem saveHeader_overwrites (s : State) : Memory.Overwrites fun m => (s.withFbuf m).saveHeader := by
  simp only [State.saveHeader, memWrite, Memory.write, withFbuf_fbuf, withFbuf_imgBpp, withFbuf_width, withFbuf_height,
    withFbuf_saveOffset, withFbuf_saveImageSize, withFbuf_saveFileSize, withFbuf_hblobByte]
  iterate 12 refine .fill ?_ _ _ _
  exact .id

/-- The file is written over whatever FBUF holds (40_codec.md R126). -/
theorem saveFbuf_overwrites (s : State) : Memory.Overwrites fun m => (s.withFbuf m).saveFbuf := by
  simp only [State.saveFbuf, withFbuf_imgBpp, withFbuf_width, withFbuf_height, withFbuf_palByte, withFbuf_gridByte,
    withFbuf_saveRowByte]
  by_cases h8 : s.imgBpp = 8
  · simp only [h8, if_true]
    exact ((saveHeader_overwrites s).fill _ _ _).fill _ _ _
  · simp only [h8, if_false]
    exact (saveHeader_overwrites s).fill _ _ _

/-- A SAVE that ends with OK held an image, its file fits FBUF, and the commit is what it did (40_codec.md R126). -/
theorem save_of_code_ok {s t : State} (h : exec .save s = .next t) (hok : t.code = .ok) :
    s.img = true ∧ s.savedLength ≤ s.params.fbufBytes.toNat ∧ t = s.saveCommit.finish .ok := by
  cases himg : s.img with
  | false =>
    obtain rfl := Host.Outcome.next.inj ((withImage_of_no_img himg _).symm.trans h)
    cases hok
  | true =>
    by_cases hfits : s.savedLength ≤ s.params.fbufBytes.toNat
    · exact ⟨rfl, hfits, Host.Outcome.next.inj (h.symm.trans (exec_save_of_fits himg hfits))⟩
    · obtain rfl := Host.Outcome.next.inj ((exec_save_of_too_long himg (not_le.1 hfits)).symm.trans h)
      cases hok

/-- Settles O33: the second SAVE writes the same bytes over the file of the first. -/
theorem secondSaveWritesTheSameFile : Obligations.SecondSaveWritesTheSameFile := by
  intro s t u hst hok htu
  obtain ⟨himg, hfits, rfl⟩ := save_of_code_ok hst hok
  obtain rfl := Host.Outcome.next.inj ((exec_save_of_fits (s := s.saveCommit.finish .ok) himg hfits).symm.trans htu)
  refine ⟨rfl, rfl, fun a => ?_⟩
  exact congrArg (Option.getD · _) ((saveFbuf_overwrites s).lookup_twice s.fbuf a)

/-! ### LOAD depends on the file image alone (40_codec.md R123) -/

/-- A LOAD that ends with OK passed every check, and the commit is what it did (40_codec.md R111). -/
theorem load_of_code_ok {s t : State} (h : exec .load s = .next t) (hok : t.code = .ok) :
    LoadOk s ∧ t = s.loadCommit.finish .ok := by
  by_cases hstatus : s.loadStatus = .ok
  · have hload := (loadStatus_eq_ok_iff s).1 hstatus
    exact ⟨hload, Host.Outcome.next.inj (h.symm.trans (exec_load_of_ok hload))⟩
  · obtain rfl := Host.Outcome.next.inj ((exec_load_of_status rfl hstatus).symm.trans h)
    exact absurd hok hstatus

/-- LOAD ends with the status its checks give (40_codec.md R112). -/
theorem load_code {s t : State} (h : exec .load s = .next t) : t.code = s.loadStatus := by
  obtain rfl := Host.Outcome.next.inj ((execLoad_eq s).symm.trans h)
  split
  next hok => exact hok.symm
  next => rfl

/-- Every address of an image area is a channel of a pixel (20_memory.md R54). -/
theorem exists_pixel_of_lt {c w h a : ℕ} (ha : a < c * (w * h)) :
    ∃ y x ch, y < h ∧ x < w ∧ ch < c ∧ a = c * (y * w + x) + ch := by
  have hc : 0 < c := Nat.pos_of_ne_zero fun h0 => by simp [h0] at ha
  have hw : 0 < w := Nat.pos_of_ne_zero fun h0 => by simp [h0] at ha
  have hp : a / c < w * h := Nat.div_lt_of_lt_mul ha
  exact ⟨a / c / w, a / c % w, a % c, Nat.div_lt_of_lt_mul hp, Nat.mod_lt _ hw, Nat.mod_lt _ hc, by
    rw [Nat.div_add_mod', Nat.div_add_mod]⟩

/-- The same of a 24-bit image, its rows counted from the bottom as they are stored (40_codec.md R119). -/
theorem exists_storedPixel_of_lt {w h a : ℕ} (ha : a < 3 * (w * h)) :
    ∃ st x ch, st < h ∧ x < w ∧ ch < 3 ∧ a = 3 * ((h - 1 - st) * w + x) + ch := by
  obtain ⟨y, x, ch, hy, hx, hch, rfl⟩ := exists_pixel_of_lt ha
  exact ⟨h - 1 - y, x, ch, by omega, hx, hch, by rw [show h - 1 - (h - 1 - y) = y by omega]⟩

theorem loadArea_of_24 {s : State} (hdepth : s.fileDepth = 24) :
    s.loadArea = 3 * (s.fileWidth.toNat * s.fileHeight.toNat) := by
  rw [State.loadArea, if_pos hdepth, Nat.mul_comm]

theorem loadArea_of_8 {s : State} (hdepth : s.fileDepth = 8) : s.loadArea = s.fileWidth.toNat * s.fileHeight.toNat := by
  rw [State.loadArea, if_neg (by omega), Nat.mul_one]

/-- The stored rows of an accepted 24-bit file end by the length of the file (40_codec.md R118). -/
theorem LoadOk.rows_le {s : State} (h : LoadOk s) (hdepth : s.fileDepth = 24) :
    s.fileDataOffset + stride24 s.fileWidth.toNat * s.fileHeight.toNat ≤ s.fileLength := by
  have hneed := h.need
  have hh := h.h
  rw [State.fileNeed, if_pos hdepth] at hneed
  zify
  rwa [Int.toNat_of_nonneg hh.le]

/-- The flat run of an accepted 8-bit file ends by the length of the file (40_codec.md R118). -/
theorem LoadOk.run_le {s : State} (h : LoadOk s) (hdepth : s.fileDepth = 8) :
    s.fileDataOffset + s.fileWidth.toNat * s.fileHeight.toNat ≤ s.fileLength := by
  have hneed := h.need
  have hcnt := h.cnt hdepth
  have hw := h.w
  have hh := h.h
  rw [State.fileNeed, if_neg (by omega)] at hneed
  zify
  rw [Int.toNat_of_nonneg hw.le, Int.toNat_of_nonneg hh.le]
  omega

/-- The byte of FBUF that goes to GRIDMEM[a] (40_codec.md R119, R120). -/
def State.loadPixelAddr (s : State) (a : ℕ) : ℕ :=
  if s.fileDepth = 24 then fileAddr24 s.fileDataOffset s.fileWidth.toNat s.fileHeight.toNat a else s.fileDataOffset + a

theorem loadPixelByte_eq (s : State) (a : ℕ) : s.loadPixelByte a = s.fbufByte (s.loadPixelAddr a) := by
  unfold State.loadPixelByte State.loadPixelAddr
  split <;> rfl

/-- LOAD reads no pixel byte past the length of an accepted file (40_codec.md R118). -/
theorem LoadOk.loadPixelAddr_lt {s : State} (h : LoadOk s) {a : ℕ} (ha : a < s.loadArea) :
    s.loadPixelAddr a < s.fileLength := by
  rcases h.depth with h8 | h24
  · have hrun := h.run_le h8
    rw [loadArea_of_8 h8] at ha
    rw [State.loadPixelAddr, if_neg (by omega)]
    omega
  · have hrows := h.rows_le h24
    rw [loadArea_of_24 h24] at ha
    obtain ⟨st, x, ch, hst, hx, hch, rfl⟩ := exists_storedPixel_of_lt ha
    have hcol : 3 * x + (2 - ch) < stride24 s.fileWidth.toNat := by unfold stride24; omega
    have hbyte := rowIndex_lt hst hcol
    rw [State.loadPixelAddr, if_pos h24, fileAddr24_pixel _ hst hx hch]
    omega

/-- Two states hold the same file image: the parameters, FLEN and the bytes below it (20_memory.md R53). -/
structure SameFileImage (s s' : State) : Prop where
  params : s'.params = s.params
  flen : s'.flen = s.flen
  bytes : ∀ a, a < s.fileLength → s'.fbufByte a = s.fbufByte a

namespace SameFileImage

variable {s s' : State} (h : SameFileImage s s')
include h

theorem fileLength : s'.fileLength = s.fileLength := by rw [State.fileLength, State.fileLength, h.flen]

/-- A field inside the file image reads the same. -/
theorem memRead {a n : ℕ} (hn : a + n ≤ s.fileLength) : memRead s'.fbufByte a n = memRead s.fbufByte a n :=
  memRead_congr n a fun b _ hb => h.bytes b (by omega)

/-- The header fields of a file that has a header read the same (30_encoding.md R91). -/
theorem header (hlen : 54 ≤ s.fileLength) :
    s'.fileMagicOk = s.fileMagicOk ∧ s'.fileDepth = s.fileDepth ∧ s'.fileCompression = s.fileCompression ∧
      s'.fileWidth = s.fileWidth ∧ s'.fileHeight = s.fileHeight ∧ s'.fileDataOffset = s.fileDataOffset ∧
      s'.fileImageSize = s.fileImageSize := by
  refine ⟨?_, h.memRead (by omega), h.memRead (by omega), congrArg (fun n => (BitVec.ofNat 32 n).toInt) ?_,
    congrArg (fun n => (BitVec.ofNat 32 n).toInt) ?_, h.memRead (by omega), h.memRead (by omega)⟩
  · rw [State.fileMagicOk, State.fileMagicOk, h.bytes 0 (by omega), h.bytes 1 (by omega)]
  · exact h.memRead (by omega)
  · exact h.memRead (by omega)

/-- LOAD's checks give the same status: the first two read no byte, and the others the header (40_codec.md R111). -/
theorem loadStatus : s'.loadStatus = s.loadStatus := by
  by_cases hlen : 54 ≤ s.fileLength
  · obtain ⟨hmagic, hdepth, hcompression, hwidth, hheight, hoffset, hsize⟩ := h.header hlen
    simp only [State.loadStatus, State.fileNeed, State.fileByteCount, h.params, h.fileLength, hmagic, hdepth, hcompression,
      hwidth, hheight, hoffset, hsize] <;> rfl
  · have hshort : s.fileLength < 54 := not_le.1 hlen
    simp only [State.loadStatus, h.params, h.fileLength, hshort, if_true]

end SameFileImage

/-- Settles O28: the checks read the header alone, and an accepted file's pixels and palette lie below FLEN. -/
theorem loadDependsOnTheFileImageAlone : Obligations.LoadDependsOnTheFileImageAlone := by
  intro s s' t t' hparams hflen hbytes ht ht'
  have hsame : SameFileImage s s' := ⟨hparams, hflen, hbytes⟩
  have hcode : t'.code = t.code := by rw [load_code ht, load_code ht', hsame.loadStatus]
  refine ⟨hcode, fun hok => ?_⟩
  obtain ⟨hload, rfl⟩ := load_of_code_ok ht hok
  obtain ⟨hload', rfl⟩ := load_of_code_ok ht' (hcode.trans hok)
  obtain ⟨-, hdepth, -, hwidth, hheight, hoffset, -⟩ := hsame.header hload.hdr
  have harea : s'.loadArea = s.loadArea := by rw [State.loadArea, State.loadArea, hwidth, hheight, hdepth]
  have haddr : ∀ a, s'.loadPixelAddr a = s.loadPixelAddr a := fun a => by
    rw [State.loadPixelAddr, State.loadPixelAddr, hwidth, hheight, hdepth, hoffset]
  refine ⟨⟨rfl, congrArg (BitVec.ofInt 32) hwidth, congrArg (BitVec.ofInt 32) hheight,
    congrArg (BitVec.ofNat 32) hdepth⟩, fun a ha => ?_, fun a ha => ?_,
    fun h8 a ha => ?_⟩
  · rw [State.finish_imageArea, loadCommit_imageArea hload] at ha
    simp only [State.finish_gridByte, State.loadCommit_gridByte, harea, ha, if_true, loadPixelByte_eq, haddr]
    exact hbytes _ (hload.loadPixelAddr_lt ha)
  · have hlen := hload.hdr
    simp only [State.finish_hblobByte, State.loadCommit_hblobByte, ha, if_true]
    exact hbytes a (by unfold State.fileLength zext32 at hlen; omega)
  · have hdepth8 : s.fileDepth = 8 := hload.depth.resolve_right fun h24 => by
      rw [State.finish_imgBpp, State.loadCommit_imgBpp, h24] at h8
      exact absurd h8 (by decide)
    have hlen := hload.pal hdepth8
    simp only [State.finish_palByte, State.loadCommit_palByte, hdepth, hdepth8, ha, and_true, ne_eq, Nat.reduceEqDiff,
      not_false_eq_true, if_true]
    exact hbytes _ (by unfold State.fileLength zext32 at hlen; omega)

/-! ### LOAD of the file SAVE writes (40_codec.md R130) -/

theorem toInt_ofNat_of_lt {n : ℕ} (h : n < 2 ^ 31) : (BitVec.ofNat 32 n).toInt = n := by
  have hn : (BitVec.ofNat 32 n).toNat = n := by rw [BitVec.toNat_ofNat]; omega
  rw [BitVec.toInt_eq_toNat_of_lt (by omega), hn]

/-- A held image that SAVE can write and LOAD can read: its file fits FBUF, and its sides fit the header's signed fields. -/
structure Savable (s : State) : Prop where
  image : s.ImageInv
  held : s.img = true
  fits : s.savedLength ≤ s.params.fbufBytes.toNat
  width_lt : s.width < 2 ^ 31
  height_lt : s.height < 2 ^ 31

namespace Savable

variable {s : State} (h : Savable s)
include h

theorem depth : s.imgBpp = 8 ∨ s.imgBpp = 24 := h.image.depth h.held

theorem size : 1 ≤ s.width ∧ 1 ≤ s.height ∧ s.width * s.height ≤ s.params.gridPx.toNat := by
  obtain ⟨hno, -⟩ | ⟨-, hw, hh, hcap, -⟩ := h.image
  · simp [h.held] at hno
  · exact ⟨hw, hh, hcap⟩

theorem fileLength : s.saveCommit.fileLength = s.savedLength := by
  rw [← saveFileSize_eq_savedLength]
  exact (BitVec.toNat_ofNat _ _).trans (Nat.mod_eq_of_lt (saveFileSize_lt h.fits))

/-- The header fields of the saved file, as LOAD reads them (40_codec.md R127). -/
theorem fields : s.saveCommit.fileDepth = s.imgBpp.toNat ∧ s.saveCommit.fileCompression = 0 ∧
    s.saveCommit.fileWidth = s.width ∧ s.saveCommit.fileHeight = s.height ∧
    s.saveCommit.fileDataOffset = s.saveOffset ∧ s.saveCommit.fileImageSize = s.saveImageSize := by
  have hfields := saveCommit_fields h.depth h.fits
  simp only [State.savedFields, List.forall_mem_cons] at hfields
  obtain ⟨-, hoffset, -, hwidth, hheight, -, hbpp, hcompression, hsize, -⟩ := hfields
  refine ⟨hbpp, hcompression, ?_, ?_, hoffset, hsize⟩
  · rw [State.fileWidth, sle32, le32, hwidth, toInt_ofNat_of_lt h.width_lt]
  · rw [State.fileHeight, sle32, le32, hheight, toInt_ofNat_of_lt h.height_lt]

/-- LOAD accepts the saved file. -/
theorem loadOk : LoadOk s.saveCommit := by
  obtain ⟨hdepth, hcompression, hwidth, hheight, hoffset, hsize⟩ := h.fields
  obtain ⟨hw, hh, hcap⟩ := h.size
  obtain ⟨hmagic0, hmagic1⟩ := saveCommit_fbufByte_magic s
  have hmagic : s.saveCommit.fileMagicOk = true := by simp [State.fileMagicOk, hmagic0, hmagic1]
  have hfits : s.saveCommit.fileLength ≤ s.params.fbufBytes.toNat := h.fileLength.trans_le h.fits
  have hlength : s.saveCommit.fileLength = s.saveOffset + s.saveImageSize :=
    h.fileLength.trans (saveFileSize_eq_savedLength s).symm
  have hcap' : (s.width : ℤ) * s.height ≤ s.params.gridPx.toNat := by exact_mod_cast hcap
  rcases h.depth with h8 | h24
  · have hoff : s.saveOffset = 1078 := if_neg (by simp [h8])
    have hsz : s.saveImageSize = s.width * s.height := if_neg (by simp [h8])
    have hd : s.saveCommit.fileDepth = 8 := hdepth.trans (congrArg BitVec.toNat h8)
    have hcount : s.saveCommit.fileByteCount = s.width * s.height := by
      rw [State.fileByteCount, hsize, hwidth, hheight, hsz]
      split <;> push_cast <;> rfl
    have hneed : s.saveCommit.fileNeed = s.saveCommit.fileLength := by
      rw [State.fileNeed, if_neg (by omega), hcount, hoffset, hlength, hsz]
      push_cast
      rfl
    exact { len := hfits, hdr := by omega, magic := hmagic, depth := .inl hd, comp := by omega, pal := by omega,
            w := by omega, h := by omega, cap := by rwa [hwidth, hheight], off := by rw [hd, hoffset, hoff]; decide,
            cnt := fun _ => by rw [hcount, hwidth, hheight], need := hneed.le }
  · have hoff : s.saveOffset = 54 := if_pos h24
    have hsz : s.saveImageSize = stride24 s.width * s.height := if_pos h24
    have hd : s.saveCommit.fileDepth = 24 := hdepth.trans (congrArg BitVec.toNat h24)
    have hneed : s.saveCommit.fileNeed = s.saveCommit.fileLength := by
      rw [State.fileNeed, if_pos hd, hwidth, hheight, hoffset, hlength, hsz, Int.toNat_natCast]
      push_cast
      rfl
    exact { len := hfits, hdr := by omega, magic := hmagic, depth := .inr hd, comp := fun _ => hcompression,
            pal := by omega, w := by omega, h := by omega, cap := by rwa [hwidth, hheight],
            off := by rw [hd, hoffset, hoff]; decide, cnt := by omega, need := hneed.le }

/-- LOAD of the saved file makes the image registers what they were. -/
theorem load_registers : s.saveCommit.loadCommit.imgW = s.imgW ∧ s.saveCommit.loadCommit.imgH = s.imgH ∧
    s.saveCommit.loadCommit.imgBpp = s.imgBpp := by
  obtain ⟨hdepth, -, hwidth, hheight, -, -⟩ := h.fields
  rw [State.loadCommit_imgW, State.loadCommit_imgH, State.loadCommit_imgBpp, hdepth, hwidth, hheight]
  simp [State.width, State.height]

/-- LOAD of the saved file puts every byte of the image area back. -/
theorem load_gridByte {a : ℕ} (ha : a < s.imageArea) : s.saveCommit.loadCommit.gridByte a = s.gridByte a := by
  obtain ⟨hdepth, -, hwidth, hheight, hoffset, -⟩ := h.fields
  have harea : s.saveCommit.loadArea = s.imageArea := by
    obtain ⟨hw, hh, hbpp⟩ := h.load_registers
    rw [← loadCommit_imageArea h.loadOk]
    exact SameImageRegisters.imageArea ⟨h.held.symm, hw, hh, hbpp⟩
  rw [State.loadCommit_gridByte, if_pos (harea.symm ▸ ha), loadPixelByte_eq, State.loadPixelAddr, hdepth, hwidth, hheight,
    hoffset, State.saveOffset]
  rcases h.depth with h8 | h24
  · rw [imageArea_of_8 h8] at ha
    simp only [h8]
    exact saveCommit_pixel s h8 ha
  · rw [imageArea_of_24 h24] at ha
    obtain ⟨st, x, ch, hst, hx, hch, rfl⟩ := exists_storedPixel_of_lt ha
    simp only [h24, Int.toNat_natCast, if_true]
    rw [if_pos (by decide), fileAddr24_pixel 54 hst hx hch, saveCommit_channel h24 hst hx (by omega),
      show 2 - (2 - ch) = ch by omega, State.pixel, State.pixelAddr, h24]
    rfl

/-- LOAD of the saved 8-bit file puts the palette back. -/
theorem load_palByte (h8 : s.imgBpp = 8) {a : ℕ} (ha : a < 1024) :
    s.saveCommit.loadCommit.palByte a = s.palByte a := by
  obtain ⟨hdepth, -⟩ := h.fields
  have hne : s.saveCommit.fileDepth ≠ 24 := by rw [hdepth, h8]; decide
  rw [State.loadCommit_palByte, if_pos ⟨hne, ha⟩]
  exact saveCommit_palette s h8 ha

/-- Ending a command leaves the image savable. -/
theorem finish (c : StatusCode) : Savable (s.finish c) := ⟨h.image, h.held, h.fits, h.width_lt, h.height_lt⟩

end Savable

/-- Ending a command leaves LOAD's checks as they are. -/
theorem LoadOk.finish {s : State} (h : LoadOk s) (c : StatusCode) : LoadOk (s.finish c) :=
  (loadStatus_eq_ok_iff (s.finish c)).1 ((loadStatus_eq_ok_iff s).2 h)

/-- The image a LOAD makes can be saved: its file is no longer than the one loaded (40_codec.md R130). -/
theorem savable_loadCommit {s : State} (hok : LoadOk s) : Savable s.loadCommit := by
  obtain ⟨hw, hh⟩ := loadCommit_dims hok
  have hwlt : s.fileWidth < 2 ^ 31 := sle32_lt _ _
  have hhlt : s.fileHeight < 2 ^ 31 := sle32_lt _ _
  refine ⟨imageInv_loadCommit hok, rfl, le_trans ?_ hok.len, by omega, by omega⟩
  have hoff := hok.off
  rw [← saveFileSize_eq_savedLength, State.saveFileSize, State.saveOffset, State.saveImageSize, State.loadCommit_imgBpp,
    hw, hh]
  rcases hok.depth with h8 | h24
  · have hrun := hok.run_le h8
    rw [h8] at hoff ⊢
    rw [if_neg (by decide), if_neg (by decide)]
    exact (Nat.add_le_add_right hoff _).trans hrun
  · have hrows := hok.rows_le h24
    rw [h24] at hoff ⊢
    rw [if_pos (by decide), if_pos (by decide)]
    exact (Nat.add_le_add_right hoff _).trans hrows

/-- Settles O32: the image LOAD makes can be saved, and LOAD of the saved file undoes the SAVE. -/
theorem loadSaveLoadRoundTrip : Obligations.LoadSaveLoadRoundTrip := by
  intro s t₁ ht₁ hcode
  obtain ⟨hok, rfl⟩ := load_of_code_ok ht₁ hcode
  have hsavable : Savable (s.loadCommit.finish .ok) := (savable_loadCommit hok).finish .ok
  obtain ⟨hw, hh, hbpp⟩ := hsavable.load_registers
  exact ⟨_, _, exec_save_of_fits hsavable.held hsavable.fits, rfl, exec_load_of_ok (hsavable.loadOk.finish .ok), rfl, hw, hh,
    hbpp, fun a => hsavable.load_gridByte, fun h8 a => hsavable.load_palByte h8⟩

end Sys2Proof.Machine
end

section
/-! Binary64 rounding (00_scope.md R13): the machine's `ofRatio` is `fl`, a nearest value, even on a tie; what has a mantissa of
at most 53 bits is rounded to itself; and the error of a rounding is at most 2^-53 of the value. -/

namespace Sys2Proof.Machine.B64

theorem ofRatio_zero (q : ℕ) : ofRatio 0 q = ⟨0, 0⟩ := if_pos rfl

theorem ofRatio_of_ne_zero {p : ℤ} (hp : p ≠ 0) (q : ℕ) :
    ofRatio p q = ⟨p.sign * roundHalfEven (scaledNum p.natAbs (exponentFor p.natAbs q))
      (scaledDen q (exponentFor p.natAbs q)), exponentFor p.natAbs q⟩ := if_neg hp

/-! ### The mantissa of `ofRatio` -/

section
variable {p : ℤ} {q : ℕ} (hq : 0 < q) (hp : p ≠ 0)
include hq hp

/-- The exponent is that of `ulp`. -/
theorem ofRatio_exp : (ofRatio p q).exp = Int.log 2 |(p : ℚ) / q| - 52 := by
  rw [ofRatio_of_ne_zero hp, exponentFor_eq_log _ _ (Int.natAbs_pos.2 hp) hq, abs_div, Nat.cast_natAbs, Int.cast_abs,
    Nat.abs_cast]

/-- The rational, over 2 to the exponent, lies between 2^52 and 2^53. -/
theorem ofRatio_scaled_bounds :
    2 ^ 52 ≤ |(p : ℚ) / q / 2 ^ (ofRatio p q).exp| ∧ |(p : ℚ) / q / 2 ^ (ofRatio p q).exp| < 2 ^ 53 := by
  have hexp : (ofRatio p q).exp = exponentFor p.natAbs q := by rw [ofRatio_of_ne_zero hp]
  have hbounds := exponent_bounds p.natAbs q (Int.natAbs_pos.2 hp) hq
  rw [Nat.cast_natAbs, Int.cast_abs] at hbounds
  have hpow : (0 : ℚ) < 2 ^ exponentFor p.natAbs q := by positivity
  rwa [hexp, abs_div, abs_div, Nat.abs_cast, abs_of_pos hpow]

/-- The mantissa is a nearest integer of the scaled rational, and even on a tie. -/
theorem ofRatio_mant : (ofRatio p q).mant = roundEven ((p : ℚ) / q / 2 ^ (ofRatio p q).exp) := by
  rw [ofRatio_of_ne_zero hp]
  simp only
  rw [roundHalfEven_eq_roundEven _ _ (scaledDen_pos q hq _), scaled_eq _ _ hq, Nat.cast_natAbs, Int.cast_abs]
  rcases lt_or_gt_of_ne hp with hneg | hpos
  · rw [Int.sign_eq_neg_one_of_neg hneg, abs_of_neg (by exact_mod_cast hneg), neg_div, neg_div, roundEven_neg]
    ring
  · rw [Int.sign_eq_one_of_pos hpos, abs_of_pos (by exact_mod_cast hpos), one_mul]

end

/-- `roundEven` is a nearest integer, and even on a tie. -/
theorem roundEven_spec (t : ℚ) : |t - roundEven t| ≤ 1 / 2 ∧ (|t - roundEven t| = 1 / 2 → roundEven t % 2 = 0) := by
  have hlow := Int.floor_le t
  have hhigh := Int.lt_floor_add_one t
  unfold roundEven
  split_ifs with hbelow habove heven
  · rw [abs_of_nonneg (by linarith)]
    exact ⟨by linarith, fun h => by linarith⟩
  · push_cast
    rw [abs_of_neg (by linarith)]
    exact ⟨by linarith, fun h => by linarith⟩
  · rw [abs_of_nonneg (by linarith)]
    exact ⟨by linarith, fun _ => heven⟩
  · push_cast
    rw [abs_of_neg (by linarith)]
    exact ⟨by linarith, fun _ => by omega⟩

/-- No integer is nearer than a nearest one. -/
theorem abs_sub_roundEven_le (t : ℚ) (k : ℤ) : |t - roundEven t| ≤ |t - k| := by
  obtain ⟨hnear, -⟩ := roundEven_spec t
  by_cases hk : k = roundEven t
  · rw [hk]
  · have hdist : (1 : ℚ) ≤ |(k : ℚ) - roundEven t| := by
      exact_mod_cast Int.one_le_abs (sub_ne_zero.2 hk)
    have htri := abs_sub_le (k : ℚ) t (roundEven t)
    rw [abs_sub_comm (k : ℚ) t] at htri
    linarith

/-- The value of a ratio is its binary64 rounding. -/
theorem toRat_ofRatio (p : ℤ) {q : ℕ} (hq : 0 < q) : (ofRatio p q).toRat = fl ((p : ℚ) / q) := by
  rcases eq_or_ne p 0 with rfl | hp
  · simp [ofRatio_zero, B64.toRat, fl, roundEven]
  · rw [B64.toRat, ofRatio_mant hq hp, fl, ulp, ofRatio_exp hq hp]

/-! ### The distance of a ratio from its rounding -/

/-- A distance in units of a power of two. -/
theorem abs_sub_mul_zpow (y k : ℚ) (e : ℤ) : |y - k * 2 ^ e| = |y / 2 ^ e - k| * 2 ^ e := by
  have hpow : (0 : ℚ) < 2 ^ e := by positivity
  rw [← abs_of_pos hpow, ← abs_mul, abs_of_pos hpow, sub_mul, div_mul_cancel₀ _ hpow.ne']

section
variable {p : ℤ} {q : ℕ} (hq : 0 < q) (hp : p ≠ 0)
include hq hp

/-- The mantissa has a magnitude from 2^52 to 2^53. -/
theorem ofRatio_mant_bounds : 2 ^ 52 ≤ (ofRatio p q).mant.natAbs ∧ (ofRatio p q).mant.natAbs ≤ 2 ^ 53 := by
  obtain ⟨hlow, hhigh⟩ := ofRatio_scaled_bounds hq hp
  obtain ⟨hnear, -⟩ := roundEven_spec ((p : ℚ) / q / 2 ^ (ofRatio p q).exp)
  rw [← ofRatio_mant hq hp] at hnear
  generalize (p : ℚ) / q / 2 ^ (ofRatio p q).exp = t at *
  generalize (ofRatio p q).mant = m at *
  have hdist := abs_le.1 ((abs_abs_sub_abs_le_abs_sub t m).trans hnear)
  have hcast : |(m : ℚ)| = (m.natAbs : ℚ) := by rw [Nat.cast_natAbs, Int.cast_abs]
  rw [hcast] at hdist
  constructor
  · have : (2 ^ 52 : ℚ) < m.natAbs + 1 := by linarith
    exact Nat.lt_succ_iff.1 (by exact_mod_cast this)
  · have : (m.natAbs : ℚ) < 2 ^ 53 + 1 := by linarith
    exact Nat.lt_succ_iff.1 (by exact_mod_cast this)

/-- The magnitude of a ratio is at least 2^52 units of its exponent. -/
theorem mul_exp_le_abs : 2 ^ 52 * 2 ^ (ofRatio p q).exp ≤ |(p : ℚ) / q| := by
  have hpow : (0 : ℚ) < 2 ^ (ofRatio p q).exp := by positivity
  obtain ⟨hlow, -⟩ := ofRatio_scaled_bounds hq hp
  rwa [abs_div, abs_of_pos hpow, le_div_iff₀ hpow] at hlow

/-- The distance of a ratio from its rounding, in units of the exponent. -/
theorem abs_sub_toRat : |(p : ℚ) / q - (ofRatio p q).toRat| =
    |(p : ℚ) / q / 2 ^ (ofRatio p q).exp - roundEven ((p : ℚ) / q / 2 ^ (ofRatio p q).exp)| * 2 ^ (ofRatio p q).exp := by
  rw [B64.toRat, abs_sub_mul_zpow, ofRatio_mant hq hp]

/-- No integer number of units of the exponent is nearer than the rounding. -/
theorem abs_sub_toRat_le_units (k : ℤ) :
    |(p : ℚ) / q - (ofRatio p q).toRat| ≤ |(p : ℚ) / q - k * 2 ^ (ofRatio p q).exp| := by
  rw [abs_sub_toRat hq hp, abs_sub_mul_zpow]
  exact mul_le_mul_of_nonneg_right (abs_sub_roundEven_le _ k) (by positivity)

/-- The rounding is no farther from the ratio than 2^52 units of the exponent with the ratio's sign. -/
theorem abs_sub_toRat_le_abs_sub :
    |(p : ℚ) / q - (ofRatio p q).toRat| ≤ |(p : ℚ) / q| - 2 ^ 52 * 2 ^ (ofRatio p q).exp := by
  have hlow := mul_exp_le_abs hq hp
  rcases le_total 0 ((p : ℚ) / q) with hpos | hneg
  · have h := abs_sub_toRat_le_units hq hp (2 ^ 52)
    rw [abs_of_nonneg hpos] at hlow ⊢
    push_cast at h
    rwa [abs_of_nonneg (a := (p : ℚ) / q - _ * _) (by linarith)] at h
  · have h := abs_sub_toRat_le_units hq hp (-2 ^ 52)
    rw [abs_of_nonpos hneg] at hlow ⊢
    push_cast at h
    rw [abs_of_nonpos (a := (p : ℚ) / q - _ * _) (by linarith)] at h
    linarith

/-- No value with a mantissa of at most 53 bits is nearer (00_scope.md R13). One with a larger exponent is an integer number
of units; one with a smaller exponent is at most 2^52 units, so that those lie between it and the ratio. -/
theorem abs_sub_toRat_le (m e : ℤ) (hm : m.natAbs ≤ 2 ^ 53) :
    |(p : ℚ) / q - (ofRatio p q).toRat| ≤ |(p : ℚ) / q - m * (2 : ℚ) ^ e| := by
  rcases le_or_gt (ofRatio p q).exp e with hlarge | hsmall
  · obtain ⟨n, hn⟩ := Int.eq_ofNat_of_zero_le (sub_nonneg.2 hlarge)
    have hunits : (m : ℚ) * 2 ^ e = ((m * 2 ^ n : ℤ) : ℚ) * 2 ^ (ofRatio p q).exp := by
      rw [show e = n + (ofRatio p q).exp by omega, zpow_add₀ (by norm_num), zpow_natCast]
      push_cast
      ring
    rw [hunits]
    exact abs_sub_toRat_le_units hq hp _
  · have hcast : |(m : ℚ)| ≤ 2 ^ 53 := by
      rw [← Int.cast_abs, ← Nat.cast_natAbs]
      exact_mod_cast hm
    have hpow : (2 : ℚ) ^ e ≤ 2 ^ ((ofRatio p q).exp - 1) := zpow_le_zpow_right₀ (by norm_num) (by omega)
    have hvalue : |(m : ℚ) * 2 ^ e| ≤ 2 ^ 52 * 2 ^ (ofRatio p q).exp := by
      calc |(m : ℚ) * 2 ^ e| = |(m : ℚ)| * 2 ^ e := by rw [abs_mul, abs_of_pos (a := (2 : ℚ) ^ e) (by positivity)]
        _ ≤ 2 ^ 53 * 2 ^ ((ofRatio p q).exp - 1) := mul_le_mul hcast hpow (by positivity) (by positivity)
        _ = 2 ^ 52 * 2 ^ (ofRatio p q).exp := by rw [zpow_sub_one₀ (by norm_num)]; ring
    have htri := abs_sub_abs_le_abs_sub ((p : ℚ) / q) (m * 2 ^ e)
    have hround := abs_sub_toRat_le_abs_sub hq hp
    linarith

/-- On a tie the mantissa is even (00_scope.md R13). -/
theorem ofRatio_mant_even_of_tie (htie : |(p : ℚ) / q - (ofRatio p q).toRat| = 2 ^ ((ofRatio p q).exp - 1)) :
    (ofRatio p q).mant % 2 = 0 := by
  have hpow : (0 : ℚ) < 2 ^ (ofRatio p q).exp := by positivity
  rw [abs_sub_toRat hq hp, zpow_sub_one₀ (by norm_num), mul_comm, mul_right_inj' hpow.ne'] at htie
  rw [ofRatio_mant hq hp]
  exact (roundEven_spec _).2 (by rw [htie]; norm_num)

/-- The error of a rounding is at most 2^-53 of the value. -/
theorem abs_sub_toRat_le_rel : |(p : ℚ) / q - (ofRatio p q).toRat| ≤ |(p : ℚ) / q| / 2 ^ 53 := by
  obtain ⟨hnear, -⟩ := roundEven_spec ((p : ℚ) / q / 2 ^ (ofRatio p q).exp)
  have hpow : (0 : ℚ) < 2 ^ (ofRatio p q).exp := by positivity
  have hhalf := mul_le_mul_of_nonneg_right hnear hpow.le
  have hlow := mul_exp_le_abs hq hp
  rw [abs_sub_toRat hq hp, le_div_iff₀ (by positivity)]
  linarith

end

/-! ### Rounding a rational -/

/-- Every rational is a ratio, so what `ofRatio` does is what `fl` does. -/
theorem fl_eq_toRat (y : ℚ) : fl y = (ofRatio y.num y.den).toRat := by
  rw [toRat_ofRatio _ y.den_pos, Rat.num_div_den]

@[simp] theorem fl_zero : fl 0 = 0 := by simp [fl, roundEven]

/-- A value with a mantissa of at most 53 bits is rounded to itself (00_scope.md R13). -/
theorem fl_of_mantissa (m e : ℤ) (hm : m.natAbs ≤ 2 ^ 53) : fl (m * (2 : ℚ) ^ e) = m * (2 : ℚ) ^ e := by
  generalize hy : (m : ℚ) * 2 ^ e = y
  rcases eq_or_ne y 0 with rfl | hne
  · exact fl_zero
  · have hnear := abs_sub_toRat_le y.den_pos (Rat.num_ne_zero.2 hne) m e hm
    rw [← fl_eq_toRat, Rat.num_div_den, hy, sub_self, abs_zero] at hnear
    exact (sub_eq_zero.1 (abs_eq_zero.1 (le_antisymm hnear (abs_nonneg _)))).symm

/-- An integer of magnitude at most 2^53 is rounded to itself. -/
theorem fl_intCast (n : ℤ) (hn : n.natAbs ≤ 2 ^ 53) : fl n = n := by
  simpa using fl_of_mantissa n 0 hn

/-- The error of a rounding is at most 2^-53 of the value. -/
theorem abs_fl_sub_le (y : ℚ) : |fl y - y| ≤ |y| / 2 ^ 53 := by
  rcases eq_or_ne y 0 with rfl | hne
  · simp
  · have hrel := abs_sub_toRat_le_rel y.den_pos (Rat.num_ne_zero.2 hne)
    rwa [← fl_eq_toRat, Rat.num_div_den, abs_sub_comm] at hrel

/-! ### The operations (00_scope.md R13) -/

theorem toRat_add (x y : B64) : (add x y).toRat = fl (x.toRat + y.toRat) := by
  rw [add, toRat_ofRatio _ (Nat.mul_pos (den_pos x) (den_pos y)), add_ratio]

theorem toRat_sub (x y : B64) : (sub x y).toRat = fl (x.toRat - y.toRat) := by
  rw [sub, toRat_ofRatio _ (Nat.mul_pos (den_pos x) (den_pos y)), sub_ratio]

theorem toRat_mul (x y : B64) : (mul x y).toRat = fl (x.toRat * y.toRat) := by
  rw [mul, toRat_ofRatio _ (Nat.mul_pos (den_pos x) (den_pos y)), mul_ratio]

/-- The final rounding is that of the value. -/
theorem roundClamp_eq (x : B64) : x.roundClamp = clampByte (ratRound x.toRat) := by
  rw [roundClamp, clamp_eq_clampByte, roundDiv_eq_ratRound _ (den_pos x), toRat_eq]

/-- Settles O60: each operation is `ofRatio` of the exact result, and `ofRatio` is a nearest value, even on a tie. -/
theorem binaryArithmeticRoundsToNearestEven : Obligations.BinaryArithmeticRoundsToNearestEven := by
  refine ⟨fun x y => ⟨toRat_add x y, toRat_sub x y, toRat_mul x y, roundClamp_eq x⟩, toRat_ofInt,
    fun p q hq => toRat_ofRatio p hq, fun p q hq hp => ?_⟩
  obtain ⟨hlow, hhigh⟩ := ofRatio_mant_bounds hq hp
  refine ⟨hlow, hhigh, abs_sub_toRat_le hq hp, ofRatio_mant_even_of_tie hq hp, ?_⟩
  rintro rfl hsmall
  rw [toRat_ofRatio p hq, Nat.cast_one, div_one]
  exact fl_intCast p hsmall

end Sys2Proof.Machine.B64
end

section
/-! The convolution engine (42_convolution.md): the machine's pixel is the rounded and clamped value of R170 and R177, in either
numerics. -/

namespace Sys2Proof.Machine

/-! ### The value the machine rounds -/

theorem halfSide (k : ℕ) : (((2 * k + 1 : ℕ) : ℤ) - 1) / 2 = k := by omega

/-- The exact sum (42_convolution.md R170). -/
theorem convSum_eq (s : State) (K : ℕ → ℕ → ℤ) (k y x ch : ℕ) :
    s.convSum K (2 * k + 1) y x ch = convolutionSum s K k y x ch := by
  simp only [State.convSum, convolutionSum, halfSide, sumTo_eq, sample_eq_clampedSample]

/-- The binary64 accumulation, term by term (42_convolution.md R177). -/
theorem toRat_convAcc64 (s : State) (K : ℕ → ℕ → ℤ) {d : ℕ} (hd : 0 < d) (k y x ch : ℕ) :
    (s.convAcc64 K d (2 * k + 1) y x ch).toRat = binary64Sum s K d k y x ch := by
  simp only [State.convAcc64, binary64Sum, halfSide]
  have hzero : (B64.ofInt 0).toRat = 0 := B64.toRat_ofInt 0
  rw [← hzero]
  refine (List.foldl_hom B64.toRat fun acc r => ?_).symm
  refine List.foldl_hom B64.toRat fun acc c => ?_
  rw [B64.toRat_add, B64.toRat_mul, B64.toRat_ofInt, B64.toRat_ofRatio _ hd, sample_eq_clampedSample]

/-- The machine's pixel is clamp(round(q), 0, 255) of the value of R170 or R177. -/
theorem convPixel_eq (s : State) (K : ℕ → ℕ → ℤ) {d : ℕ} (hd : 0 < d) (k y x ch : ℕ) :
    s.convPixel K d (2 * k + 1) y x ch = clampByte (ratRound (convolutionValue s K d k y x ch)) := by
  unfold State.convPixel convolutionValue
  cases s.params.numerics with
  | exactArith => simp only [clamp_eq_clampByte, roundDiv_eq_ratRound _ hd, convSum_eq]
  | binary64 => simp only [B64.roundClamp_eq, toRat_convAcc64 s K hd]

theorem clampByte_bounds (v : ℤ) : 0 ≤ clampByte v ∧ clampByte v ≤ 255 := by
  unfold clampByte
  omega

/-- A clamped value survives as a byte. -/
theorem byteOf_clampByte_toNat (v : ℤ) : ((byteOf (clampByte v)).toNat : ℤ) = clampByte v :=
  byteOf_toNat (clampByte_bounds v).1 (clampByte_bounds v).2

/-- What CONV puts at a channel of a pixel (42_convolution.md R170, R177). -/
theorem conv_pixel_toNat (s : State) (K : ℕ → ℕ → ℤ) {d : ℕ} (hd : 0 < d) (k : ℕ) {y x ch : ℕ} (hy : y < s.height)
    (hx : x < s.width) (hch : ch < channels s.imgBpp) :
    ((((s.conv K d (2 * k + 1)).finish .ok).pixel y x ch).toNat : ℤ) =
      clampByte (ratRound (convolutionValue s K d k y x ch)) := by
  rw [conv_pixel s K d _ hy hx hch, convPixel_eq s K hd, byteOf_clampByte_toNat]

/-! ### CONVOLVE (42_convolution.md R172) -/

/-- The divisor of a legal kernel is a positive natural. -/
theorem kernelDivisor_of_ready {s : State} (h : ImageCommandReady .convolve s) :
    0 < s.kernelDivisor.toNat ∧ (s.kernelDivisor.toNat : ℚ) = s.kdiv.toInt := by
  obtain ⟨-, -, -, -, hdiv⟩ := h
  have hpos : 0 < s.kernelDivisor := hdiv
  refine ⟨by omega, ?_⟩
  rw [← Int.cast_natCast, Int.toNat_of_nonneg hpos.le]
  rfl

/-- Settles O48: the side of the kernel is odd, so CONV runs over i and j from −k to k. -/
theorem convolveComputesTheWeightedSum : Obligations.ConvolveComputesTheWeightedSum := by
  intro s k hready hside
  obtain ⟨hdpos, hdcast⟩ := kernelDivisor_of_ready hready
  have hn : s.kernelSide.toNat = 2 * k + 1 := by
    rw [State.kernelSide, sext32, hside]
    omega
  refine ⟨_, exec_convolve_of_legal hready.1 (kernelLegal_of_ready hready), writesGridBelow_conv s _ _ _,
    fun y x ch hy hx hch => ?_⟩
  rw [hn, conv_pixel_toNat s _ hdpos k hy hx hch, hdcast]
  rfl

/-! ### The presets (42_convolution.md R178–R183) -/

/-- Each preset command is `preset` of its own weights and divisor. -/
theorem exec_eq_preset {s : State} {i : Instr} {rows : List ℤ} {d : ℕ} (h : (i, rows, d) ∈ presetKernels s) :
    exec i s = preset rows d s ∧ 0 < d := by
  simp only [presetKernels, List.mem_cons, Prod.mk.injEq, List.not_mem_nil, or_false] at h
  obtain ⟨rfl, rfl, rfl⟩ | ⟨rfl, rfl, rfl⟩ | ⟨rfl, rfl, rfl⟩ | ⟨rfl, rfl, rfl⟩ | ⟨rfl, rfl, rfl⟩ := h
  all_goals exact ⟨rfl, by decide⟩

/-- Settles O49: a preset is CONV of side 3, whose half side is 1. -/
theorem presetsApplyTheirMatrices : Obligations.PresetsApplyTheirMatrices := by
  intro s i rows d hmem himg
  obtain ⟨hexec, hd⟩ := exec_eq_preset hmem
  exact ⟨_, hexec.trans (preset_of_img himg rows d), writesGridBelow_conv s _ _ _,
    fun y x ch hy hx hch => conv_pixel_toNat s (matrix3 rows) hd 1 hy hx hch⟩

/-! ### The terms of a convolution as one list -/

/-- The samples a convolution takes and their weights, in the order of R177: rows outer, columns inner. -/
def convolutionTerms (s : State) (K : ℕ → ℕ → ℤ) (k y x ch : ℕ) : List (ℤ × ℤ) :=
  (List.range (2 * k + 1)).flatMap fun (r : ℕ) => (List.range (2 * k + 1)).map fun (c : ℕ) =>
    (clampedSample s (y - ((r : ℤ) - k)) (x - ((c : ℤ) - k)) ch, K r c)

/-- One step of the accumulation of R177. -/
def accumulate (d acc : ℚ) (term : ℤ × ℤ) : ℚ := fl (acc + fl (term.1 * fl (term.2 / d)))

theorem binary64Sum_eq_foldl (s : State) (K : ℕ → ℕ → ℤ) (d : ℚ) (k y x ch : ℕ) :
    binary64Sum s K d k y x ch = (convolutionTerms s K k y x ch).foldl (accumulate d) 0 := by
  simp only [binary64Sum, convolutionTerms, List.foldl_flatMap, List.foldl_map, accumulate]

/-- A sum over a range, as the sum of a list. -/
theorem sum_range_eq_listSum (n : ℕ) (f : ℕ → ℤ) : ∑ r ∈ Finset.range n, f r = ((List.range n).map f).sum := rfl

theorem convolutionSum_eq_sum (s : State) (K : ℕ → ℕ → ℤ) (k y x ch : ℕ) :
    convolutionSum s K k y x ch = ((convolutionTerms s K k y x ch).map fun term => term.1 * term.2).sum := by
  simp only [convolutionSum, convolutionTerms, sum_range_eq_listSum, List.flatMap_def, List.map_flatten,
    List.map_map, List.sum_flatten, Function.comp_def]

theorem convolutionTerms_length (s : State) (K : ℕ → ℕ → ℤ) (k y x ch : ℕ) :
    (convolutionTerms s K k y x ch).length = (2 * k + 1) * (2 * k + 1) := by
  simp [convolutionTerms, List.length_flatMap]

/-- Every term is a byte with a weight of the kernel. -/
theorem convolutionTerms_mem {s : State} {K : ℕ → ℕ → ℤ} {k y x ch : ℕ} {term : ℤ × ℤ}
    (h : term ∈ convolutionTerms s K k y x ch) :
    0 ≤ term.1 ∧ term.1 ≤ 255 ∧ ∃ r c, r < 2 * k + 1 ∧ c < 2 * k + 1 ∧ term.2 = K r c := by
  simp only [convolutionTerms, List.mem_flatMap, List.mem_map, List.mem_range] at h
  obtain ⟨r, hr, c, hc, rfl⟩ := h
  have hbounds := sample_bounds s (y - ((r : ℤ) - k)) (x - ((c : ℤ) - k)) ch
  rw [sample_eq_clampedSample] at hbounds
  exact ⟨hbounds.1, hbounds.2, r, c, hr, hc, rfl⟩

/-! ### Exact accumulation (42_convolution.md R186) -/

theorem fl_div_two_pow {m : ℤ} (hm : |m| ≤ 2 ^ 53) (j : ℕ) : fl ((m : ℚ) / 2 ^ j) = m / 2 ^ j := by
  have hscale : (m : ℚ) / 2 ^ j = m * 2 ^ (-(j : ℤ)) := by rw [zpow_neg, zpow_natCast, div_eq_mul_inv]
  rw [hscale]
  exact B64.fl_of_mantissa m _ (by zify; exact hm)

/-- A step whose literal, product and sum have mantissas of at most 53 bits rounds nothing. -/
theorem accumulate_exact {A v K : ℤ} (hK : |K| ≤ 2 ^ 53) (hprod : |v * K| ≤ 2 ^ 53) (hsum : |A + v * K| ≤ 2 ^ 53) (j : ℕ) :
    accumulate (2 ^ j) (A / 2 ^ j) (v, K) = ((A + v * K : ℤ) : ℚ) / 2 ^ j := by
  have hp : (v : ℚ) * (K / 2 ^ j) = ((v * K : ℤ) : ℚ) / 2 ^ j := by push_cast; ring
  have hs : (A : ℚ) / 2 ^ j + ((v * K : ℤ) : ℚ) / 2 ^ j = ((A + v * K : ℤ) : ℚ) / 2 ^ j := by push_cast; ring
  rw [accumulate, fl_div_two_pow hK, hp, fl_div_two_pow hprod, hs, fl_div_two_pow hsum]

/-- With a divisor of 2^j and weights of 32 bits a step adds less than 2^39 units, so that as many steps as keep the sum within
2^53 units round nothing. -/
theorem foldl_accumulate_exact (j : ℕ) : ∀ (terms : List (ℤ × ℤ)) (A : ℤ),
    (∀ term ∈ terms, 0 ≤ term.1 ∧ term.1 ≤ 255 ∧ |term.2| ≤ 2 ^ 31) → |A| + terms.length * 2 ^ 39 ≤ 2 ^ 53 →
    terms.foldl (accumulate (2 ^ j)) (A / 2 ^ j) = (A + (terms.map fun term => term.1 * term.2).sum : ℤ) / 2 ^ j
  | [], A, _, _ => by simp
  | (v, K) :: terms, A, hterms, hA => by
    obtain ⟨⟨hv0, hv1, hK⟩, hrest⟩ := List.forall_mem_cons.1 hterms
    simp only at hv0 hv1 hK
    have hprod : |v * K| ≤ 2 ^ 39 := by
      rw [abs_mul, abs_of_nonneg hv0]
      calc v * |K| ≤ 255 * 2 ^ 31 := mul_le_mul hv1 hK (abs_nonneg K) (by norm_num)
        _ ≤ 2 ^ 39 := by norm_num
    have hsum := abs_add_le A (v * K)
    have hlen : (0 : ℤ) ≤ terms.length * 2 ^ 39 := by positivity
    rw [List.length_cons] at hA
    push_cast at hA
    rw [List.foldl_cons, accumulate_exact (by omega) (by omega) (by omega),
      foldl_accumulate_exact j terms (A + v * K) hrest (by omega), List.map_cons, List.sum_cons, add_assoc]

/-- A kernel of side 3 with 32-bit weights over a power of two has the same value in both numerics (42_convolution.md R186). -/
theorem binary64Sum_eq_exact (s : State) {K : ℕ → ℕ → ℤ} (hK : ∀ r c, |K r c| ≤ 2 ^ 31) (j y x ch : ℕ) :
    binary64Sum s K (2 ^ j) 1 y x ch = convolutionSum s K 1 y x ch / 2 ^ j := by
  have hterms : ∀ term ∈ convolutionTerms s K 1 y x ch, 0 ≤ term.1 ∧ term.1 ≤ 255 ∧ |term.2| ≤ 2 ^ 31 := fun term h => by
    obtain ⟨h0, h255, r, c, -, -, hw⟩ := convolutionTerms_mem h
    exact ⟨h0, h255, hw ▸ hK r c⟩
  have hfold := foldl_accumulate_exact j _ 0 hterms (by rw [convolutionTerms_length]; norm_num)
  rw [binary64Sum_eq_foldl, convolutionSum_eq_sum]
  simpa using hfold

theorem convolutionValue_eq_exact (s : State) {K : ℕ → ℕ → ℤ} (hK : ∀ r c, |K r c| ≤ 2 ^ 31) (j y x ch : ℕ) :
    convolutionValue s K (2 ^ j) 1 y x ch = convolutionSum s K 1 y x ch / 2 ^ j := by
  unfold convolutionValue
  split
  next => rfl
  next => exact binary64Sum_eq_exact s hK j y x ch

/-- A word has 32 bits, one of them its sign. -/
theorem abs_toInt_le (w : Word) : |w.toInt| ≤ 2 ^ 31 := by
  have hlow := BitVec.le_toInt w
  have hhigh := BitVec.toInt_lt (x := w)
  exact abs_le.2 ⟨by simpa using hlow, by simpa using hhigh.le⟩

/-! ### The identity kernel (42_convolution.md R184) -/

/-- A value nearer to an integer than one half is rounded to it (00_scope.md R11). -/
theorem ratRound_eq_of_abs_lt {q : ℚ} {n : ℤ} (h : |q - n| < 1 / 2) : ratRound q = n := by
  obtain ⟨hlow, hhigh⟩ := abs_lt.1 h
  rcases le_or_gt 0 q with hpos | hneg
  · rw [ratRound_of_nonneg hpos, Int.floor_eq_iff]
    constructor <;> linarith
  · have hfloor : ⌊-q + 1 / 2⌋ = -n := by
      rw [Int.floor_eq_iff]
      push_cast
      constructor <;> linarith
    rw [← neg_neg q, ratRound_neg, ratRound_of_nonneg (by linarith), hfloor, neg_neg]

@[simp] theorem ratRound_intCast (n : ℤ) : ratRound n = n := ratRound_eq_of_abs_lt (by simp)

/-- A byte is within the clamp. -/
theorem clampByte_toNat (b : Byte) : clampByte b.toNat = b.toNat := by
  have hb := b.isLt
  unfold clampByte
  omega

/-- Inside the image the edge policy changes nothing (42_convolution.md R173). -/
theorem clampedSample_inside {s : State} {y x : ℕ} (hy : y < s.height) (hx : x < s.width) (ch : ℕ) :
    clampedSample s y x ch = (s.pixel y x ch).toNat := by
  unfold clampedSample
  rw [show (max 0 (min (y : ℤ) ((s.height : ℤ) - 1))).toNat = y by omega,
    show (max 0 (min (x : ℤ) ((s.width : ℤ) - 1))).toNat = x by omega]

/-- The kernel with a 1 in the middle sums to the sample in the middle. -/
theorem convolutionSum_identity {s : State} {K : ℕ → ℕ → ℤ}
    (hK : ∀ r c, r < 3 → c < 3 → K r c = if r = 1 ∧ c = 1 then 1 else 0) {y x : ℕ} (hy : y < s.height) (hx : x < s.width)
    (ch : ℕ) : convolutionSum s K 1 y x ch = (s.pixel y x ch).toNat := by
  rw [← clampedSample_inside hy hx, convolutionSum]
  have hterms : ∀ r ∈ Finset.range 3, ∀ c ∈ Finset.range 3,
      clampedSample s (y - ((r : ℤ) - (1 : ℕ))) (x - ((c : ℤ) - (1 : ℕ))) ch * K r c =
        if r = 1 ∧ c = 1 then clampedSample s y x ch else 0 := by
    intro r hr c hc
    rw [hK r c (Finset.mem_range.1 hr) (Finset.mem_range.1 hc)]
    split
    next h => simp [h.1, h.2]
    next => exact mul_zero _
  rw [Finset.sum_congr rfl fun r hr => Finset.sum_congr rfl (hterms r hr)]
  simp [Finset.sum_range_succ]

/-- Two states with images of one shape agree on GRIDMEM when they agree pixel by pixel in the image area and outside it. -/
theorem gridByte_eq_of_pixel_eq {s t : State} (himage : SameImageRegisters s t)
    (hinside : ∀ y x ch, y < s.height → x < s.width → ch < channels s.imgBpp → t.pixel y x ch = s.pixel y x ch)
    (houtside : ∀ a, s.imageArea ≤ a → t.gridByte a = s.gridByte a) (a : ℕ) : t.gridByte a = s.gridByte a := by
  by_cases ha : a < s.imageArea
  · obtain ⟨-, hw, -, hbpp⟩ := himage
    have harea : a < channels s.imgBpp * (s.width * s.height) := ha.trans_eq (Nat.mul_comm _ _)
    obtain ⟨y, x, ch, hy, hx, hch, rfl⟩ := exists_pixel_of_lt harea
    have hpixel := hinside y x ch hy hx hch
    rwa [State.pixel, State.pixel, State.pixelAddr, State.pixelAddr, State.width, hw, hbpp] at hpixel
  · exact houtside a (by omega)

/-- Settles O51: in either numerics the value rounded is the pixel itself. -/
theorem identityKernelChangesNothing : Obligations.IdentityKernelChangesNothing := by
  intro s hready hside hdiv hkernel
  obtain ⟨t, ht, hframe, hpixel⟩ := convolveComputesTheWeightedSum s 1 hready (by rw [hside]; rfl)
  refine ⟨t, ht, hframe.ended, gridByte_eq_of_pixel_eq hframe.imageRegisters (fun y x ch hy hx hch => ?_) hframe.grid⟩
  have hK : ∀ r c, r < 3 → c < 3 → (s.kmemWord (r * (2 * 1 + 1) + c)).toInt = if r = 1 ∧ c = 1 then 1 else 0 := by
    intro r c hr hc
    rw [hkernel _ (by omega)]
    by_cases hmiddle : r = 1 ∧ c = 1
    · rw [if_pos (by omega), if_pos hmiddle]; rfl
    · rw [if_neg (by omega), if_neg hmiddle]; rfl
  have hvalue := convolutionValue_eq_exact s (K := fun r c => (s.kmemWord (r * (2 * 1 + 1) + c)).toInt)
    (fun _ _ => abs_toInt_le _) 0 y x ch
  have hd : ((s.kdiv.toInt : ℤ) : ℚ) = 2 ^ 0 := by rw [hdiv]; rfl
  have hbyte := hpixel y x ch hy hx hch
  rw [hd, hvalue, convolutionSum_identity hK hy hx, pow_zero, div_one, ratRound_intCast, clampByte_toNat] at hbyte
  exact BitVec.eq_of_toNat_eq (by exact_mod_cast hbyte)

/-! ### The presets in the two numerics (42_convolution.md R186) -/

/-- The block with P_NUMERICS set to one of its values. -/
def State.withNumerics (s : State) (num : Numerics) : State := { s with params := { s.params with numerics := num } }

/-- A preset whose exact and binary64 values round alike makes the same image in both numerics. -/
theorem preset_agrees {rows : List ℤ} {d : ℕ} (hd : 0 < d)
    (hround : ∀ (s : State) (y x ch : ℕ), ratRound (binary64Sum s (matrix3 rows) d 1 y x ch) =
      ratRound (convolutionSum s (matrix3 rows) 1 y x ch / d))
    {s t t' : State} (h : preset rows d (s.withNumerics .exactArith) = .next t)
    (h' : preset rows d (s.withNumerics .binary64) = .next t') (a : ℕ) : t'.gridByte a = t.gridByte a := by
  cases himg : s.img with
  | false =>
    obtain rfl := Host.Outcome.next.inj ((withImage_of_no_img (s := s.withNumerics .exactArith) himg _).symm.trans h)
    obtain rfl := Host.Outcome.next.inj ((withImage_of_no_img (s := s.withNumerics .binary64) himg _).symm.trans h')
    rfl
  | true =>
    obtain rfl := Host.Outcome.next.inj ((preset_of_img (s := s.withNumerics .exactArith) himg rows d).symm.trans h)
    obtain rfl := Host.Outcome.next.inj ((preset_of_img (s := s.withNumerics .binary64) himg rows d).symm.trans h')
    simp only [State.finish_gridByte, State.conv_gridByte, State.convByte]
    have hpixel : ∀ y x ch, (s.withNumerics .binary64).convPixel (matrix3 rows) d 3 y x ch =
        (s.withNumerics .exactArith).convPixel (matrix3 rows) d 3 y x ch := fun y x ch => by
      rw [convPixel_eq _ _ hd 1, convPixel_eq _ _ hd 1]
      exact congrArg clampByte (hround (s.withNumerics .binary64) y x ch)
    rw [hpixel]
    rfl

/-- An entry of a matrix of 32-bit weights has 32 bits. -/
theorem abs_matrix3_le {rows : List ℤ} (h : ∀ w ∈ rows, |w| ≤ 2 ^ 31) (r c : ℕ) : |matrix3 rows r c| ≤ 2 ^ 31 := by
  unfold matrix3
  rw [List.getD_eq_getElem?_getD]
  cases hw : rows[3 * r + c]? with
  | none => norm_num
  | some w => exact h w (List.mem_of_getElem? hw)

/-- Settles O52: a divisor of 1 or 16 and weights of 32 bits leave nothing to round. -/
theorem integerPresetsAgreeInBothNumerics : Obligations.IntegerPresetsAgreeInBothNumerics := by
  intro s t t' i hi h h'
  have hagrees : ∀ {rows : List ℤ} (j : ℕ), (∀ w ∈ rows, |w| ≤ 2 ^ 31) →
      preset rows (2 ^ j) (s.withNumerics .exactArith) = .next t →
      preset rows (2 ^ j) (s.withNumerics .binary64) = .next t' → ∀ a, t'.gridByte a = t.gridByte a :=
    fun j hrows => preset_agrees (by positivity) fun s y x ch => by
      push_cast
      rw [binary64Sum_eq_exact s (abs_matrix3_le hrows)]
  fin_cases hi
  · exact hagrees 4 (by decide) h h'
  · exact hagrees 0 (by decide) h h'
  · refine hagrees (rows := s.embossRows) 0 (fun w hw => ?_) h h'
    obtain ⟨v, -, rfl⟩ := List.mem_map.1 hw
    exact abs_toInt_le v
  · exact hagrees 0 (by decide) h h'

/-! ### BOXBLUR (42_convolution.md R179, R186) -/

/-- One step of BOXBLUR's accumulation is wrong by at most 2^-40: three roundings of values below 2^9. -/
theorem accumulate_nine_error {acc : ℚ} (hacc : |acc| ≤ 256) {v : ℤ} (hv0 : 0 ≤ v) (hv1 : v ≤ 255) :
    |accumulate 9 acc (v, 1) - (acc + v / 9)| ≤ 1 / 2 ^ 40 := by
  have h0 : (0 : ℚ) ≤ v := by exact_mod_cast hv0
  have h1 : (v : ℚ) ≤ 255 := by exact_mod_cast hv1
  obtain ⟨w, hw⟩ : ∃ w, w = fl ((1 : ℤ) / 9) := ⟨_, rfl⟩
  obtain ⟨p, hp⟩ : ∃ p, p = fl (v * w) := ⟨_, rfl⟩
  have hliteral : |w - 1 / 9| ≤ 1 / 9 / 2 ^ 53 := by
    have h := B64.abs_fl_sub_le ((1 : ℤ) / 9)
    rw [← hw] at h
    norm_num at h ⊢
    exact h
  obtain ⟨hw0, hw1⟩ := abs_le.1 hliteral
  have hvw : |v * w - v / 9| ≤ 1 / 2 ^ 44 := by
    rw [show (v : ℚ) * w - v / 9 = v * (w - 1 / 9) by ring, abs_mul, abs_of_nonneg h0]
    calc (v : ℚ) * |w - 1 / 9| ≤ 255 * (1 / 9 / 2 ^ 53) := mul_le_mul h1 hliteral (abs_nonneg _) (by norm_num)
      _ ≤ 1 / 2 ^ 44 := by norm_num
  obtain ⟨hvw0, hvw1⟩ := abs_le.1 hvw
  have hproduct : |p - v * w| ≤ 1 / 2 ^ 44 := by
    have h := B64.abs_fl_sub_le (v * w)
    rw [← hp] at h
    have hsize : |(v : ℚ) * w| ≤ 256 := abs_le.2 ⟨by linarith, by linarith⟩
    linarith
  obtain ⟨hp0, hp1⟩ := abs_le.1 hproduct
  have hsum := B64.abs_fl_sub_le (acc + p)
  have hsize : |acc + p| ≤ 512 := by
    have hpsize : |p| ≤ 256 := abs_le.2 ⟨by linarith, by linarith⟩
    have := abs_add_le acc p
    linarith
  obtain ⟨hs0, hs1⟩ := abs_le.1 (hsum.trans (div_le_div_of_nonneg_right hsize (by norm_num)))
  rw [accumulate]
  simp only
  rw [← hw, ← hp]
  exact abs_le.2 ⟨by linarith, by linarith⟩

/-- The accumulation of n samples is wrong by at most n times the error of one step. -/
theorem foldl_accumulate_nine_error : ∀ (terms : List (ℤ × ℤ)) (acc : ℚ) (A : ℤ) (n : ℕ),
    (∀ term ∈ terms, 0 ≤ term.1 ∧ term.1 ≤ 255 ∧ term.2 = 1) → n + terms.length ≤ 9 → 0 ≤ A → A ≤ 255 * n →
    |acc - A / 9| ≤ n / 2 ^ 40 →
    |terms.foldl (accumulate 9) acc - (A + (terms.map fun term => term.1 * term.2).sum : ℤ) / 9| ≤ 9 / 2 ^ 40
  | [], acc, A, n, _, hn, _, _, h => by
    have hn' : (n : ℚ) ≤ 9 := by exact_mod_cast hn
    simpa using h.trans (div_le_div_of_nonneg_right hn' (by norm_num))
  | (v, K) :: terms, acc, A, n, hterms, hn, hA0, hA1, h => by
    obtain ⟨⟨hv0, hv1, hK⟩, hrest⟩ := List.forall_mem_cons.1 hterms
    simp only at hv0 hv1 hK
    subst hK
    rw [List.length_cons] at hn
    have hacc : |acc| ≤ 256 := by
      have hn' : (n : ℚ) ≤ 8 := by exact_mod_cast (by omega : n ≤ 8)
      have h0 : (0 : ℚ) ≤ A := by exact_mod_cast hA0
      have h1 : (A : ℚ) ≤ 255 * n := by exact_mod_cast hA1
      obtain ⟨hlow, hhigh⟩ := abs_le.1 h
      exact abs_le.2 ⟨by linarith, by linarith⟩
    have hstep : |accumulate 9 acc (v, 1) - (A + v * 1 : ℤ) / 9| ≤ (n + 1 : ℕ) / 2 ^ 40 := by
      have herror := accumulate_nine_error hacc hv0 hv1
      calc |accumulate 9 acc (v, 1) - (A + v * 1 : ℤ) / 9|
          = |(accumulate 9 acc (v, 1) - (acc + v / 9)) + (acc - A / 9)| := by push_cast; ring_nf
        _ ≤ 1 / 2 ^ 40 + n / 2 ^ 40 := (abs_add_le _ _).trans (add_le_add herror h)
        _ = (n + 1 : ℕ) / 2 ^ 40 := by push_cast; ring
    rw [List.foldl_cons, List.map_cons, List.sum_cons, ← add_assoc]
    exact foldl_accumulate_nine_error terms _ (A + v * 1) (n + 1) hrest (by omega) (by omega) (by push_cast; omega) hstep

/-- A value within 9/2^40 of a ninth is rounded as the ninth is: a ninth is within 4/9 of an integer. -/
theorem ratRound_of_near_ninth {q : ℚ} {S : ℤ} (h : |q - S / 9| ≤ 9 / 2 ^ 40) : ratRound q = ratRound (S / 9) := by
  obtain ⟨n, hlow, hhigh⟩ : ∃ n : ℤ, -4 ≤ S - 9 * n ∧ S - 9 * n ≤ 4 := ⟨(S + 4) / 9, by omega, by omega⟩
  have hlow' : (-4 : ℚ) ≤ S - 9 * n := by exact_mod_cast hlow
  have hhigh' : (S : ℚ) - 9 * n ≤ 4 := by exact_mod_cast hhigh
  obtain ⟨hq0, hq1⟩ := abs_le.1 h
  rw [ratRound_eq_of_abs_lt (n := n) (abs_lt.2 ⟨by linarith, by linarith⟩),
    ratRound_eq_of_abs_lt (n := n) (abs_lt.2 ⟨by linarith, by linarith⟩)]

/-- Settles O53: S/9 is at least 1/18 from a half-integer, and the accumulation errs by far less. -/
theorem boxBlurAgreesInBothNumerics : Obligations.BoxBlurAgreesInBothNumerics := by
  intro s t t' h h'
  refine preset_agrees (rows := boxBlurRows) (d := 9) (by decide) (fun s y x ch => ?_) h h'
  have hones : ∀ r < 3, ∀ c < 3, matrix3 boxBlurRows r c = 1 := by decide
  have hterms : ∀ term ∈ convolutionTerms s (matrix3 boxBlurRows) 1 y x ch,
      0 ≤ term.1 ∧ term.1 ≤ 255 ∧ term.2 = 1 := fun term hterm => by
    obtain ⟨h0, h255, r, c, hr, hc, hw⟩ := convolutionTerms_mem hterm
    exact ⟨h0, h255, hw.trans (hones r hr c hc)⟩
  have herror := foldl_accumulate_nine_error _ 0 0 0 hterms (by rw [convolutionTerms_length]) le_rfl le_rfl (by simp)
  rw [zero_add, ← convolutionSum_eq_sum] at herror
  rw [binary64Sum_eq_foldl]
  exact ratRound_of_near_ninth herror

end Sys2Proof.Machine
end

section
/-! The equalizer (43_equalize.md): the remap table, the colour transform and the two paths of EQUALIZE, in either numerics. -/

namespace Sys2Proof.Machine

/-! ### The remap table (43_equalize.md R201–R204) -/

/-- An entry of the table is the rounded and clamped quotient of R204 (R213 under BINARY64). -/
theorem remapEntry_eq (num : Numerics) {c cmin n : ℕ} (h : cmin < n) :
    (remapEntry num c cmin n : ℤ) =
      clampByte (ratRound (num.rnd (num.rnd (((c : ℚ) - cmin) / ((n : ℚ) - cmin)) * 255))) := by
  have hd : 0 < n - cmin := Nat.sub_pos_of_lt h
  have hden : ((n - cmin : ℕ) : ℚ) = (n : ℚ) - cmin := Nat.cast_sub h.le
  cases num with
  | exactArith =>
    have hq : (((((c : ℤ) - cmin) * 255 : ℤ)) : ℚ) / (n - cmin : ℕ) = ((c : ℚ) - cmin) / ((n : ℚ) - cmin) * 255 := by
      rw [hden]
      push_cast
      ring
    rw [remapEntry, clamp_eq_clampByte, roundDiv_eq_ratRound _ hd, hq, Int.toNat_of_nonneg (clampByte_bounds _).1]
    rfl
  | binary64 =>
    rw [remapEntry, B64.roundClamp_eq, B64.toRat_mul, B64.toRat_ofRatio _ hd, B64.toRat_ofInt, hden,
      Int.toNat_of_nonneg (clampByte_bounds _).1]
    push_cast
    rfl

section
variable {f : ℕ → ℕ} {n m : ℕ} (hm : IsLowest f n m) (hbyte : ∀ p, p < n → f p < 256)
include hm

/-- The lowest intensity is a byte when every intensity is. -/
theorem IsLowest.lt_256 (hbyte : ∀ p, p < n → f p < 256) : m < 256 := by
  obtain ⟨⟨p, hp, rfl⟩, -⟩ := hm
  exact hbyte p hp

/-- A flat image is the degenerate case of R204: every value is counted at the lowest. -/
theorem IsLowest.countAtMost_eq_iff : countAtMost f n m = n ↔ ∀ q, q < n → f q = m := by
  constructor
  · intro h q hq
    by_contra hne
    have hlow := hm.2 q hq
    have hlt : countAtMost f n m < n := countAtMost_lt ⟨q, hq, by omega⟩
    omega
  · exact fun h => countAtMost_full fun q hq => (h q hq).le

include hbyte

/-- The table at an intensity that is present: 0 where the image is flat, and else the remap of R204. -/
theorem eqTable_getD (num : Numerics) {p : ℕ} (hp : p < n) :
    (((eqTable num ((List.range n).map f) n).getD (f p) 0 : ℕ) : ℤ) =
      if ∀ q, q < n → f q = m then 0 else remapOf num f n m (f p) := by
  have hv := hbyte p hp
  obtain ⟨hlowest, hcmin⟩ := lowestPresent_eq f n m hm (hm.lt_256 hbyte)
  have hle : countAtMost f n m ≤ n := countAtMost_le
  rw [eqTable, hcmin, hlowest]
  by_cases hflat : ∀ q, q < n → f q = m
  · rw [if_pos hflat, if_pos (hm.countAtMost_eq_iff.2 hflat).symm, List.getD_eq_getElem _ _ (by simpa using hv)]
    simp [hflat p hp]
  · have hlt : countAtMost f n m < n := lt_of_le_of_ne hle (mt hm.countAtMost_eq_iff.1 hflat)
    have hlen : f p < (cdfTable ((List.range n).map f)).length := (cdfTable_length _).symm ▸ hv
    have hcdf := cdfTable_eq_countAtMost f n hv
    rw [List.getD_eq_getElem _ _ hlen] at hcdf
    rw [if_neg hflat, if_neg (by omega), List.getD_eq_getElem _ _ (by simpa using hlen), List.getElem_map, hcdf,
      remapEntry_eq num hlt]
    rfl

/-- An entry the image uses is a byte (10_state.md R44). -/
theorem eqTable_getD_lt (num : Numerics) {p : ℕ} (hp : p < n) :
    (eqTable num ((List.range n).map f) n).getD (f p) 0 < 256 := by
  have htable := eqTable_getD hm hbyte num hp
  have hremap : remapOf num f n m (f p) ≤ 255 := (clampByte_bounds _).2
  split at htable <;> omega

end

/-! ### The grey path (43_equalize.md R210) -/

/-- EQUALIZE of a held 8-bit image: its frame, and every pixel through the table. -/
theorem exec_equalize_grey {s : State} (himg : s.img = true) (hdepth : s.imgBpp = 8) {m : ℕ}
    (hm : IsLowest (fun p => (s.gridByte p).toNat) s.pixels m) :
    ∃ t, exec .equalize s = .next t ∧ WritesGridBelow s.imageArea s t ∧ ∀ p, p < s.pixels →
      ((t.gridByte p).toNat : ℤ) = if ∀ q, q < s.pixels → (s.gridByte q).toNat = m then 0 else
        remapOf s.params.numerics (fun q => (s.gridByte q).toNat) s.pixels m (s.gridByte p).toNat := by
  refine ⟨_, exec_equalize_of_img himg, writesGridBelow_equalizeCommit s, fun p hp => ?_⟩
  have htable := eqTable_getD hm (fun q _ => (s.gridByte q).isLt) s.params.numerics hp
  have hlt := eqTable_getD_lt hm (fun q _ => (s.gridByte q).isLt) s.params.numerics hp
  rw [State.finish_gridByte, State.equalizeCommit_gridByte, if_pos hdepth, State.equalizeGrey_gridByte, if_pos hp,
    ← htable, BitVec.toNat_ofNat, State.greyValues, Nat.mod_eq_of_lt hlt]

/-- Settles O54: the image is not flat, so the table is the remap of R204. -/
theorem equalizeRemapsAnEightBitImage : Obligations.EqualizeRemapsAnEightBitImage := by
  intro s m himg hdepth hm hother
  obtain ⟨t, ht, hframe, hpixel⟩ := exec_equalize_grey himg hdepth hm
  obtain ⟨q, hq, hne⟩ := hother
  exact ⟨t, ht, hframe, fun p hp => (hpixel p hp).trans (if_neg fun hflat => hne (hflat q hq))⟩

/-- Settles O55: the table of a flat image holds 0 at its one intensity. -/
theorem equalizeMapsAFlatEightBitImageToZero : Obligations.EqualizeMapsAFlatEightBitImageToZero := by
  intro s v himg hdepth hpos hflat
  have hm : IsLowest (fun p => (s.gridByte p).toNat) s.pixels v.toNat :=
    ⟨⟨0, hpos, congrArg BitVec.toNat (hflat 0 hpos)⟩, fun p hp => (congrArg BitVec.toNat (hflat p hp)).ge⟩
  obtain ⟨t, ht, hframe, hpixel⟩ := exec_equalize_grey himg hdepth hm
  refine ⟨t, ht, hframe, fun p hp => byte_eq_of_toNat (n := 0) ?_⟩
  have hzero := (hpixel p hp).trans (if_pos fun q hq => congrArg BitVec.toNat (hflat q hq))
  exact_mod_cast hzero

/-! ### The order of intensities (43_equalize.md R212) -/

/-- The lowest intensity of an image with pixels. -/
theorem exists_isLowest (f : ℕ → ℕ) {n : ℕ} (hn : 0 < n) : ∃ m, IsLowest f n m := by
  obtain ⟨p, hp, hmin⟩ := Finset.exists_min_image (Finset.range n) f ⟨0, Finset.mem_range.2 hn⟩
  exact ⟨f p, ⟨p, Finset.mem_range.1 hp, rfl⟩, fun q hq => hmin q (Finset.mem_range.2 hq)⟩

theorem clampByte_mono {v w : ℤ} (h : v ≤ w) : clampByte v ≤ clampByte w := by
  unfold clampByte
  omega

theorem ratRound_mono_of_nonneg {x y : ℚ} (hx : 0 ≤ x) (h : x ≤ y) : ratRound x ≤ ratRound y := by
  rw [ratRound_of_nonneg hx, ratRound_of_nonneg (hx.trans h)]
  exact Int.floor_le_floor (by linarith)

/-- The lowest intensity becomes 0. -/
theorem remapOf_lowest (f : ℕ → ℕ) (n m : ℕ) : remapOf .exactArith f n m m = 0 := by
  simp only [remapOf, Numerics.rnd_exactArith, sub_self, zero_div, zero_mul]
  exact (congrArg clampByte (ratRound_intCast 0)).trans (by decide)

section
variable {f : ℕ → ℕ} {n m : ℕ} (hlt : countAtMost f n m < n)
include hlt

/-- The remap keeps the order of the intensities from the lowest on: CDF does, and the divisor is positive. -/
theorem remapOf_mono {v w : ℕ} (hmv : m ≤ v) (hvw : v ≤ w) :
    remapOf .exactArith f n m v ≤ remapOf .exactArith f n m w := by
  have hpos : (0 : ℚ) < (n : ℚ) - countAtMost f n m := sub_pos.2 (by exact_mod_cast hlt)
  have hmv' : (countAtMost f n m : ℚ) ≤ countAtMost f n v := by exact_mod_cast countAtMost_mono hmv
  have hvw' : (countAtMost f n v : ℚ) ≤ countAtMost f n w := by exact_mod_cast countAtMost_mono hvw
  refine clampByte_mono (ratRound_mono_of_nonneg ?_ ?_)
  · exact mul_nonneg (div_nonneg (by linarith) hpos.le) (by norm_num)
  · exact mul_le_mul_of_nonneg_right (div_le_div_of_nonneg_right (by linarith) hpos.le) (by norm_num)

/-- An intensity no pixel exceeds becomes 255. -/
theorem remapOf_highest {v : ℕ} (hv : ∀ p, p < n → f p ≤ v) : remapOf .exactArith f n m v = 255 := by
  have hpos : (n : ℚ) - countAtMost f n m ≠ 0 := (sub_pos.2 (by exact_mod_cast hlt)).ne'
  simp only [remapOf, Numerics.rnd_exactArith, countAtMost_full hv, div_self hpos, one_mul]
  exact (congrArg clampByte (ratRound_intCast 255)).trans (by decide)

end

/-- Settles O57: the remap is monotone, 0 at the lowest and 255 at the highest intensity present. -/
theorem equalizeKeepsTheOrderOfIntensities : Obligations.EqualizeKeepsTheOrderOfIntensities := by
  intro s himg hdepth hnum hdiffer
  obtain ⟨p₀, q₀, hp₀, hq₀, hne⟩ := hdiffer
  obtain ⟨m, hm⟩ := exists_isLowest (fun p => (s.gridByte p).toNat) (n := s.pixels) (by omega)
  have hnotFlat : ¬ ∀ q, q < s.pixels → (s.gridByte q).toNat = m := fun hflat =>
    hne (BitVec.eq_of_toNat_eq ((hflat p₀ hp₀).trans (hflat q₀ hq₀).symm))
  have hlt := lt_of_le_of_ne countAtMost_le (mt hm.countAtMost_eq_iff.1 hnotFlat)
  obtain ⟨t, ht, -, hpixel⟩ := exec_equalize_grey himg hdepth hm
  have hremap : ∀ p, p < s.pixels → ((t.gridByte p).toNat : ℤ) =
      remapOf .exactArith (fun q => (s.gridByte q).toNat) s.pixels m (s.gridByte p).toNat := fun p hp => by
    rw [hpixel p hp, if_neg hnotFlat, hnum]
  refine ⟨t, ht, fun p q hp hq hle => ?_, fun p hp hlow => ?_, fun p hp hhigh => ?_⟩
  · have hmono := remapOf_mono hlt (hm.2 p hp) hle
    rw [← hremap p hp, ← hremap q hq] at hmono
    exact_mod_cast hmono
  · obtain ⟨⟨r, hr, hrm⟩, hlowest⟩ := hm
    have hpm : (s.gridByte p).toNat = m := le_antisymm ((hlow r hr).trans hrm.le) (hlowest p hp)
    have hzero := hremap p hp
    rw [hpm, remapOf_lowest] at hzero
    exact byte_eq_of_toNat (n := 0) (by exact_mod_cast hzero)
  · have htop := hremap p hp
    rw [remapOf_highest hlt hhigh] at htop
    exact byte_eq_of_toNat (n := 255) (by exact_mod_cast htop)

/-! ### The colour transform (43_equalize.md R205–R209) -/

/-- Clamping and rounding n/d over the integers (43_equalize.md R209). -/
theorem clampRound_eq (n : ℤ) {d : ℕ} (hd : 0 < d) : clampRound n d = roundOfClamp ((n : ℚ) / d) := by
  have hd' : (0 : ℚ) < d := by exact_mod_cast hd
  have hclamp : ((clamp n 0 (255 * d) : ℤ) : ℚ) / d = max 0 (min ((n : ℚ) / d) 255) := by
    have h255 : ((255 * d : ℤ) : ℚ) / d = 255 := by
      push_cast
      exact mul_div_cancel_right₀ _ hd'.ne'
    unfold clamp
    split_ifs with hlow hhigh
    · have hneg : (n : ℚ) / d < 0 := div_neg_of_neg_of_pos (by exact_mod_cast hlow) hd'
      rw [Int.cast_zero, zero_div, max_eq_left ((min_le_left _ _).trans hneg.le)]
    · have habove : 255 ≤ (n : ℚ) / d := h255 ▸ div_le_div_of_nonneg_right (by exact_mod_cast hhigh.le) hd'.le
      rw [h255, min_eq_right habove, max_eq_right (by norm_num)]
    · have hbelow : (n : ℚ) / d ≤ 255 := h255 ▸ div_le_div_of_nonneg_right (by exact_mod_cast not_lt.1 hhigh) hd'.le
      have hnonneg : 0 ≤ (n : ℚ) / d := div_nonneg (by exact_mod_cast not_lt.1 hlow) hd'.le
      rw [min_eq_left hbelow, max_eq_right hnonneg]
  rw [clampRound, roundDiv_eq_ratRound _ hd, hclamp, roundOfClamp]

theorem roundOfClamp_bounds (q : ℚ) : 0 ≤ roundOfClamp q ∧ roundOfClamp q ≤ 255 := by
  have hnonneg : (0 : ℚ) ≤ max 0 (min q 255) := le_max_left _ _
  have hle : max 0 (min q 255) ≤ (255 : ℤ) := by simp
  rw [roundOfClamp]
  constructor
  · have h := ratRound_mono_of_nonneg le_rfl hnonneg
    rwa [← Int.cast_zero, ratRound_intCast] at h
  · have h := ratRound_mono_of_nonneg hnonneg hle
    rwa [ratRound_intCast] at h

/-- A decimal literal of five places in binary64 (43_equalize.md R213). -/
theorem toRat_lit5 (n : ℤ) : (lit5 n).toRat = fl ((n : ℚ) / 100000) := by
  rw [lit5, B64.toRat_ofRatio _ (by decide), Nat.cast_ofNat]

/-- The luma as the machine quantises it (43_equalize.md R206). -/
theorem quantisedLuma_eq (num : Numerics) (r g b : ℕ) :
    quantisedLuma num r g b = (clampByte (ratRound (lumaQ num r g b))).toNat := by
  cases num with
  | exactArith =>
    have hq : lumaQ .exactArith r g b = (fwdY r g b : ℚ) / (1000 : ℕ) := by
      simp only [lumaQ, Numerics.rnd_exactArith, fwdY]
      push_cast
      ring
    rw [quantisedLuma, clamp_eq_clampByte, roundDiv_eq_ratRound _ (by decide), hq]
  | binary64 =>
    have hq : (fwdY64 r g b).toRat = lumaQ .binary64 r g b := by
      simp only [fwdY64, lumaQ, Numerics.rnd_binary64, B64.toRat_add, B64.toRat_mul, toRat_lit5, B64.toRat_ofInt]
      norm_num
    rw [quantisedLuma, B64.roundClamp_eq, hq]

/-- The chroma U as the machine holds it under EXACT, over 10^5 (43_equalize.md R205). -/
theorem chromaU_exact (r g b : ℕ) : chromaU .exactArith r g b = (fwdU r g b : ℚ) / 100000 := by
  simp only [chromaU, Numerics.rnd_exactArith, fwdU]
  push_cast
  ring

theorem chromaV_exact (r g b : ℕ) : chromaV .exactArith r g b = (fwdV r g b : ℚ) / 100000 := by
  simp only [chromaV, Numerics.rnd_exactArith, fwdV]
  push_cast
  ring

/-- The chroma U as the machine holds it under BINARY64 (43_equalize.md R213). -/
theorem toRat_fwdU64 (r g b : ℕ) : (fwdU64 r g b).toRat = chromaU .binary64 r g b := by
  simp only [fwdU64, chromaU, Numerics.rnd_binary64, B64.toRat_add, B64.toRat_sub, B64.toRat_mul, toRat_lit5,
    B64.toRat_ofInt]
  norm_num

theorem toRat_fwdV64 (r g b : ℕ) : (fwdV64 r g b).toRat = chromaV .binary64 r g b := by
  simp only [fwdV64, chromaV, Numerics.rnd_binary64, B64.toRat_sub, B64.toRat_mul, toRat_lit5, B64.toRat_ofInt]
  norm_num

/-- INV_R, INV_G and INV_B by channel (43_equalize.md R208). -/
def inverseChannel (num : Numerics) (y u v : ℚ) (ch : ℕ) : ℚ :=
  if ch = 0 then inverseR num y v else if ch = 1 then inverseG num y u v else inverseB num y u

/-- Under EXACT a reconstructed channel is held over 10^10. -/
theorem inverseChannel_exact (y u v : ℤ) (ch : ℕ) :
    inverseChannel .exactArith y (u / 100000) (v / 100000) ch =
      ((if ch = 0 then invR y u v else if ch = 1 then invG y u v else invB y u v : ℤ) : ℚ) / (10000000000 : ℕ) := by
  unfold inverseChannel
  split_ifs
  · simp only [inverseR, Numerics.rnd_exactArith, invR]
    push_cast
    ring
  · simp only [inverseG, Numerics.rnd_exactArith, invG]
    push_cast
    ring
  · simp only [inverseB, Numerics.rnd_exactArith, invB]
    push_cast
    ring

/-- Under BINARY64 a reconstructed channel is rounded at every operation. -/
theorem inverseChannel_binary64 (y : ℤ) (u v : B64) (ch : ℕ) :
    inverseChannel .binary64 y u.toRat v.toRat ch =
      (if ch = 0 then invR64 y u v else if ch = 1 then invG64 y u v else invB64 y u v).toRat := by
  unfold inverseChannel
  split_ifs
  · simp only [inverseR, Numerics.rnd_binary64, invR64, B64.toRat_add, B64.toRat_mul, toRat_lit5, B64.toRat_ofInt]
    norm_num
  · simp only [inverseG, Numerics.rnd_binary64, invG64, B64.toRat_sub, B64.toRat_mul, toRat_lit5, B64.toRat_ofInt]
    norm_num
  · simp only [inverseB, Numerics.rnd_binary64, invB64, B64.toRat_add, B64.toRat_mul, toRat_lit5, B64.toRat_ofInt]
    norm_num

/-- A channel rebuilt from the equalized luma and the pixel's own chroma (43_equalize.md R207–R209). -/
theorem rebuiltChannel_eq (num : Numerics) (yq r g b ch : ℕ) :
    rebuiltChannel num yq r g b ch =
      roundOfClamp (inverseChannel num yq (chromaU num r g b) (chromaV num r g b) ch) := by
  rw [← Int.cast_natCast yq]
  cases num with
  | exactArith =>
    rw [chromaU_exact, chromaV_exact, inverseChannel_exact, ← clampRound_eq _ (by decide)]
    rfl
  | binary64 =>
    rw [← toRat_fwdU64, ← toRat_fwdV64, inverseChannel_binary64, B64.toRat_eq, ← clampRound_eq _ (B64.den_pos _)]
    rfl

/-! ### The colour path (43_equalize.md R200, R206) -/

theorem lumaOf_eq (s : State) : s.lumaOf = s.lumaIndex := funext fun _ => quantisedLuma_eq _ _ _ _

theorem lumaIndex_lt (s : State) (p : ℕ) : s.lumaIndex p < 256 := by
  obtain ⟨h0, h255⟩ := clampByte_bounds
    (ratRound (lumaQ s.params.numerics (s.channelQ p 0) (s.channelQ p 1) (s.channelQ p 2)))
  unfold State.lumaIndex
  omega

/-- EQUALIZE of a held 24-bit image: its frame, and every channel of every pixel. -/
theorem exec_equalize_colour {s : State} (himg : s.img = true) (hdepth : s.imgBpp = 24) {m : ℕ}
    (hm : IsLowest s.lumaIndex s.pixels m) :
    ∃ t, exec .equalize s = .next t ∧ WritesGridBelow s.imageArea s t ∧ ∀ p ch, p < s.pixels → ch < 3 →
      ((t.gridByte (3 * p + ch)).toNat : ℤ) = roundOfClamp (inverseChannel s.params.numerics
        (if ∀ q, q < s.pixels → s.lumaIndex q = m then 0 else
          remapOf s.params.numerics s.lumaIndex s.pixels m (s.lumaIndex p))
        (chromaU s.params.numerics (s.channelQ p 0) (s.channelQ p 1) (s.channelQ p 2))
        (chromaV s.params.numerics (s.channelQ p 0) (s.channelQ p 1) (s.channelQ p 2)) ch) := by
  refine ⟨_, exec_equalize_of_img himg, writesGridBelow_equalizeCommit s, fun p ch hp hch => ?_⟩
  have htable := congrArg (Int.cast : ℤ → ℚ) (eqTable_getD hm (fun q _ => lumaIndex_lt s q) s.params.numerics hp)
  rw [apply_ite Int.cast, Int.cast_natCast, Int.cast_zero] at htable
  have hne : s.imgBpp ≠ 8 := by rw [hdepth]; decide
  rw [← htable, State.finish_gridByte, State.equalizeCommit_gridByte, if_neg hne, State.equalizeColour_gridByte,
    if_pos (by omega), show (3 * p + ch) / 3 = p by omega, show (3 * p + ch) % 3 = ch by omega, rebuiltChannel_eq,
    State.lumaValues, lumaOf_eq]
  exact byteOf_toNat (roundOfClamp_bounds _).1 (roundOfClamp_bounds _).2

/-- Settles O56: the three channels of a pixel, each by its own inverse. -/
theorem equalizeRebuildsAColourImage : Obligations.EqualizeRebuildsAColourImage := by
  intro s m himg hdepth hm
  obtain ⟨t, ht, hframe, hchannel⟩ := exec_equalize_colour himg hdepth hm
  exact ⟨t, ht, hframe, fun p hp => ⟨hchannel p 0 hp (by decide), hchannel p 1 hp (by decide), hchannel p 2 hp (by decide)⟩⟩

/-! ### The flat grey image (43_equalize.md R215) -/

/-- The literals of FWD_Y sum to 1. -/
theorem lumaQ_grey (g : ℚ) : lumaQ .exactArith g g g = g := by
  simp only [lumaQ, Numerics.rnd_exactArith]
  ring

/-- The literals of FWD_U sum to 10^-5, not 0. -/
theorem chromaU_grey (g : ℚ) : chromaU .exactArith g g g = g / 100000 := by
  simp only [chromaU, Numerics.rnd_exactArith]
  ring

/-- The literals of FWD_V sum to 0. -/
theorem chromaV_grey (g : ℚ) : chromaV .exactArith g g g = 0 := by
  simp only [chromaV, Numerics.rnd_exactArith]
  ring

/-- With luma 0 the chroma of a grey pixel is too small to show in any channel. -/
theorem roundOfClamp_inverseChannel_grey {g : ℚ} (h0 : 0 ≤ g) (h255 : g ≤ 255) (ch : ℕ) :
    roundOfClamp (inverseChannel .exactArith 0 (g / 100000) 0 ch) = 0 := by
  have hsmall : inverseChannel .exactArith 0 (g / 100000) 0 ch < 1 / 2 := by
    unfold inverseChannel
    split_ifs
    · simp only [inverseR, Numerics.rnd_exactArith]
      norm_num
    · simp only [inverseG, Numerics.rnd_exactArith]
      linarith
    · simp only [inverseB, Numerics.rnd_exactArith]
      linarith
  rw [roundOfClamp]
  refine ratRound_eq_of_abs_lt ?_
  rw [Int.cast_zero, sub_zero, abs_of_nonneg (le_max_left _ _)]
  exact max_lt (by norm_num) ((min_le_left _ _).trans_lt hsmall)

/-- Settles O58: a flat image has remapped luma 0, and what its chroma adds is rounded away. -/
theorem equalizeMakesAFlatGreyColourImageBlack : Obligations.EqualizeMakesAFlatGreyColourImageBlack := by
  intro s g himg hdepth hnum hpos hgrey
  have hchannel : ∀ p ch, p < s.pixels → ch < 3 → s.channelQ p ch = g.toNat := fun p ch hp hch => by
    rw [State.channelQ, hgrey _ (by omega)]
  have hluma : ∀ p, p < s.pixels → s.lumaIndex p = g.toNat := fun p hp => by
    rw [State.lumaIndex, hnum, hchannel p 0 hp (by decide), hchannel p 1 hp (by decide), hchannel p 2 hp (by decide),
      lumaQ_grey, ← Int.cast_natCast, ratRound_intCast, clampByte_toNat, Int.toNat_natCast]
  have hm : IsLowest s.lumaIndex s.pixels g.toNat := ⟨⟨0, hpos, hluma 0 hpos⟩, fun p hp => (hluma p hp).ge⟩
  obtain ⟨t, ht, hframe, hbyte⟩ := exec_equalize_colour himg hdepth hm
  refine ⟨t, ht, hframe, fun a ha => byte_eq_of_toNat (n := 0) ?_⟩
  have hp : a / 3 < s.pixels := by omega
  have hg : (g.toNat : ℚ) ≤ 255 := by exact_mod_cast Nat.le_of_lt_succ g.isLt
  have hzero := hbyte (a / 3) (a % 3) hp (by omega)
  rw [if_pos hluma, hnum, hchannel _ 0 hp (by decide), hchannel _ 1 hp (by decide), hchannel _ 2 hp (by decide), chromaU_grey,
    chromaV_grey, roundOfClamp_inverseChannel_grey (Nat.cast_nonneg _) hg, Nat.div_add_mod] at hzero
  exact_mod_cast hzero

end Sys2Proof.Machine
end
